-- ==== Sys2Proof/Word.lean ====
section
/-! DEFINITION. The words of the block's interfaces: bytes, 16-bit words, the typed operands and the record in which
the client hands a command over (10_state R29, 30_encoding R72, R73, R79), and the transport's answers (20_memory R50).
-/
namespace Sys2Proof

/-- A byte (00_scope R12): 8 bits, unsigned, bit 0 least significant. -/
abbrev Byte := BitVec 8

/-- A 16-bit word: the length word, a sequence number, a frame checksum. -/
abbrev Half := BitVec 16

/-- The types an operand of a command can have (30_encoding R72, R73). -/
inductive OperandKind where
  | byteKind | halfKind | bytesKind
deriving DecidableEq, Repr

/-- One operand of a command, carried as a typed field and not bit-packed (30_encoding R73): a value outside
the field's width cannot be written. -/
inductive Operand where
  | byteVal (v : Byte)
  | halfVal (v : Half)
  | bytesVal (v : List Byte)
deriving DecidableEq, Repr

/-- The type of an operand. -/
def Operand.kind : Operand → OperandKind
  | .byteVal _ => .byteKind
  | .halfVal _ => .halfKind
  | .bytesVal _ => .bytesKind

/-- A command as the client issues it: the record of 10_state R29, whose binary form is the code byte followed by the
typed operands (30_encoding R79). -/
structure Command where
  op : Byte
  operands : List Operand
deriving DecidableEq, Repr

/-- The transport's answer to one read request (20_memory R50): `Bytes(b)` or `TErr`. -/
inductive Answer where
  | bytes (b : List Byte)
  | terr
deriving DecidableEq, Repr, Inhabited

end Sys2Proof
end

