-- ==== Sys2Proof/Config.lean ====
section
/-! DEFINITION. The configuration of 10_state R27 (parameters of 00_scope R10), the fixed constants of 00_scope R8 and R9, and
the free values: constants with no body, of which no proof can know the value. The checksum parameters `P_HDRCK` and
`P_FRMCK` are functions; State is plain data, so a configuration NAMES its algorithm: the one of `DUML_DEFAULT`, or
another one, which is a free value (notes/assumptions/2.md).
-/
namespace Sys2Proof

/-- `HDR_LEN` (00_scope R8): the link header is 4 bytes. -/
def hdrLen : Nat := 4

/-- `OVERHEAD` (00_scope R8): a frame's bytes beside its payload. -/
def overhead : Nat := 13

/-- `MAX_FRAME` (00_scope R9): the largest value of the 10-bit length field; also the size of `R_BUF` (10_state R23). -/
def maxFrame : Nat := 1023

/-- `MAX_PAYLOAD` (00_scope R9). -/
def maxPayload : Nat := 1010

/-- The choice of `P_HDRCK` (00_scope R10): the table CRC-8 of `DUML_DEFAULT`, or another function, of which the spec
says nothing (40_checksums R86). -/
inductive HdrAlg where
  | dumlCrc8
  | other (k : Nat)
deriving DecidableEq, Repr

/-- The choice of `P_FRMCK` (00_scope R10): the table CRC-16 of `DUML_DEFAULT`, or another function (40_checksums R89). -/
inductive FrmAlg where
  | dumlCrc16
  | other (k : Nat)
deriving DecidableEq, Repr

/-- The configuration record (10_state R27). `scanBound = none` is the value `INF`. `P_VERSION` has 6 bits by its type.
No command writes any of it. -/
structure Config where
  magic       : Byte
  hdrSeed     : Byte
  hdrAlg      : HdrAlg
  frmInit     : Half
  frmAlg      : FrmAlg
  version     : BitVec 6
  scanBound   : Option Nat
  retryBudget : Nat
  accumulate  : Bool
deriving DecidableEq, Repr

/-- `DUML_DEFAULT` (00_scope R10) with the two `OPEN` parameters as arguments: the spec gives them no value. -/
def Config.dumlDefault (scanBound : Option Nat) (retryBudget : Nat) : Config where
  magic := 0x55
  hdrSeed := 0x77
  hdrAlg := .dumlCrc8
  frmInit := 0x3692
  frmAlg := .dumlCrc16
  version := 1
  scanBound := scanBound
  retryBudget := retryBudget
  accumulate := false

/-- FREE VALUE: the header checksum functions other than `DUML_DEFAULT`'s, by number (notes/assumptions/2.md). -/
opaque Config.otherHdrck : Nat → Byte → List Byte → Byte

/-- FREE VALUE: the frame checksum functions other than `DUML_DEFAULT`'s, by number (notes/assumptions/2.md). -/
opaque Config.otherFrmck : Nat → Half → List Byte → Half

/-- FREE VALUE: what the transport answers to a request for `n` bytes once its script is used up, by the number of
the draw (20_memory R50: "The values of the bytes and the count |b| are the transport's choice"; notes/assumptions/5.md). -/
opaque Config.draw : Nat → Nat → Answer

end Sys2Proof
end

