-- ==== Sys2Proof/Syntax.lean ====
section
/-! DEFINITION. The commands of 30_encoding R72: one constructor per row of spec/opcode_table.json, operands by R73.
-/
namespace Sys2Proof

/-- A command of the block ("instruction": 00_scope R3). The operands' widths are their types, so a value outside a field's
width cannot be written (30_encoding R73). -/
inductive Instr where
  /-- BUILD, code 0x01 (41_codec R97). -/
  | build (seq : Half) (src dst ctype cset cid : Byte) (payload : List Byte)
  /-- PARSE, code 0x02 (41_codec R103). -/
  | parse (bytes : List Byte)
  /-- NEXT_FRAME, code 0x03 (42_reader R113). -/
  | nextFrame
  /-- ABORT, code 0x04 (42_reader R125). -/
  | abort
deriving DecidableEq, Repr

end Sys2Proof
end

