-- ==== Sys2Proof/WellFormed.lean ====
section
/-! DEFINITION. What may be written: the signature of each command code and the check of a command record against it
(30_encoding R72, R73), and the legal values of a configuration (10_state R27). An `Instr` needs no check of its own:
its types exclude what R73 excludes.
-/
namespace Sys2Proof

/-- The operand types of each assigned command code, `none` for a reserved one (30_encoding R72, R74). -/
def signature (op : Byte) : Option (List OperandKind) :=
  if op = 0x01 then
    some [.halfKind, .byteKind, .byteKind, .byteKind, .byteKind, .byteKind, .bytesKind]
  else if op = 0x02 then some [.bytesKind]
  else if op = 0x03 then some []
  else if op = 0x04 then some []
  else none

/-- A command record is well formed when its code is assigned and its operands are of the code's types, in order. -/
def Command.wf (c : Command) : Bool :=
  signature c.op == some (c.operands.map Operand.kind)

/-- The legal configurations (10_state R27): a non-zero seed, a scan bound of at least 1 or `INF`, a retry budget of at
least 1. `P_VERSION` in 0..63 is its type. -/
def Config.legal (c : Config) : Bool :=
  c.hdrSeed != 0 && (c.scanBound.all fun b => 1 ≤ b) && decide (1 ≤ c.retryBudget)

end Sys2Proof
end

