-- ==== Sys2Proof/Decode.lean ====
section
/-! DEFINITION. From a command record to a command, total, rejecting by name; and back (30_encoding R72, R73, R74, R79).
The operands are typed fields and have no bit encoding (R73), so the code byte is the only encoded word.
-/
namespace Sys2Proof

/-- Why a command record is no command. A reserved code is answered by the block (ILLEGAL_COMMAND, 30_encoding R74);
operands of the wrong types cannot be written in a command at all (R73; notes/assumptions/11.md). -/
inductive DecodeError where
  | reservedCode (op : Byte)
  | operandTypes (op : Byte)
deriving DecidableEq, Repr

/-- The command a record stands for (30_encoding R72). The code is tested before the operands (60_exceptions R140 (a)). -/
def decode (c : Command) : Except DecodeError Instr :=
  if c.op = 0x01 then
    match c.operands with
    | [.halfVal seq, .byteVal src, .byteVal dst, .byteVal ctype, .byteVal cset, .byteVal cid, .bytesVal payload] =>
      .ok (.build seq src dst ctype cset cid payload)
    | _ => .error (.operandTypes c.op)
  else if c.op = 0x02 then
    match c.operands with
    | [.bytesVal bytes] => .ok (.parse bytes)
    | _ => .error (.operandTypes c.op)
  else if c.op = 0x03 then
    match c.operands with
    | [] => .ok .nextFrame
    | _ => .error (.operandTypes c.op)
  else if c.op = 0x04 then
    match c.operands with
    | [] => .ok .abort
    | _ => .error (.operandTypes c.op)
  else .error (.reservedCode c.op)

/-- The code byte of a command (30_encoding R72). -/
def Instr.code : Instr → Byte
  | .build .. => 0x01
  | .parse .. => 0x02
  | .nextFrame => 0x03
  | .abort => 0x04

/-- The typed operands of a command, in the order of 30_encoding R72. -/
def Instr.operands : Instr → List Operand
  | .build seq src dst ctype cset cid payload =>
    [.halfVal seq, .byteVal src, .byteVal dst, .byteVal ctype, .byteVal cset, .byteVal cid, .bytesVal payload]
  | .parse bytes => [.bytesVal bytes]
  | .nextFrame => []
  | .abort => []

/-- The binary form of a command: its code byte followed by its typed operands (30_encoding R79). -/
def encode (i : Instr) : Command := ⟨i.code, i.operands⟩

/-- An operand of zeros: 0, or the empty byte sequence. -/
def Operand.zero : OperandKind → Operand
  | .byteKind => .byteVal 0
  | .halfKind => .halfVal 0
  | .bytesKind => .bytesVal []

/-- The record of a table word: its low byte is the code, and the operands, to which the table gives no bits, are zeros. A
reserved code gets no operands. -/
def tableCommand (w : Nat) : Command :=
  ⟨BitVec.ofNat 8 w, ((signature (BitVec.ofNat 8 w)).getD []).map Operand.zero⟩

/-- The instruction the decoder reads from the `nbits` bits of `w`, numbered as spec/opcode_table.json numbers them. Every
row has 8 bits, so a word with a bit above them is no command. -/
def decodeTableWord (nbits w : Nat) : Option Instr :=
  if w % 2 ^ nbits < 256 then (decode (tableCommand (w % 2 ^ nbits))).toOption else none

end Sys2Proof
end

