-- ==== Sys2Proof/Machine/State.lean ====
section
/-! DEFINITION. The state, as plain data: the reader unit's registers (10_state R22; the codec unit has none, R21), the
configuration (R27), and the block's environment: the transport, the client's schedule and the responses delivered.
-/
namespace Sys2Proof.Machine

/-- `R_STATE` (10_state R22). -/
inductive ReaderState where
  | idle | scan | hdr | body
deriving DecidableEq, Repr

/-- `R_BUF` (10_state R22): the bytes that hold a value, by index, indices rising. An index not listed holds no value
(10_state R35: "a model reads it as no value"; notes/assumptions/4.md). -/
abbrev Memory := List Host.Cell

/-- The record PARSE returns (10_state R31). -/
structure Frame where
  length          : BitVec 10
  version         : BitVec 6
  headerChecksum  : Byte
  sourceAddress   : Byte
  targetAddress   : Byte
  sequenceNumber  : Half
  commandType     : Byte
  commandSet      : Byte
  commandId       : Byte
  payload         : List Byte
  payloadOffset   : Nat
  frameChecksum   : Half
deriving DecidableEq, Repr

/-- The statuses of 60_exceptions R136. -/
inductive Status where
  | ok | transportError
  | tooShort | badMagic | lengthMismatch | noMagic | shortRead | timeout | badLength
  | headerChecksum | frameChecksum
  | tooLong | aborted | illegalCommand | busy
deriving DecidableEq, Repr

/-- The `data` of a response (10_state R30). -/
inductive Data where
  | empty
  | bytes (b : List Byte)
  | frame (f : Frame)
deriving DecidableEq, Repr

/-- The `info` of a failing response (60_exceptions R137). -/
inductive Info where
  | nothing
  | inputLength (n : Nat)
  | byteFound (b : Byte)
  | lengths (decoded input : Nat)
  | storedHeader (b : Byte)
  | storedFrame (v : Half)
  | discarded (n : Nat)
  | delivered (n requested : Nat)
  | held (n : Nat)
  | retries (n : Nat)
  | decodedLength (n : Nat)
  | computedLength (n : Nat)
deriving DecidableEq, Repr

/-- A response (10_state R30). -/
structure Response where
  status : Status
  data   : Data
  info   : Info
deriving DecidableEq, Repr

/-- A response with the code of the command it answers: "A unit answers each command it accepts with exactly one
response" (10_state R29). -/
structure Reply where
  op       : Byte
  response : Response
deriving DecidableEq, Repr

/-- What the transport answers once its script is used up (20_memory R50, 60_exceptions R150): anything, as free draws; never a
byte; or one byte for ever (42_reader R129's endless run). -/
inductive Tail where
  | free
  | silent
  | endless (b : Byte)
deriving DecidableEq, Repr

/-- The transport (10_state R33): the bytes still to come, in the pieces in which it hands them out. `pos` is the number
of stream bytes consumed so far (95_test_vectors); `draws` numbers the free draws. -/
structure Transport where
  script : List Answer
  tail   : Tail
  pos    : Nat
  draws  : Nat
deriving DecidableEq, Repr

/-- What happens next, as the client and the interleaving of the agents have it (42_reader R126, 60_exceptions R148). -/
inductive Event where
  /-- The client issues a command (10_state R29). -/
  | command (c : Command)
  /-- The reader unit takes its turn: one reader step, where it has one (42_reader R116). -/
  | readerTurn
  /-- Reset, with the configuration that holds until the next reset (70_reset_and_hazards R156). -/
  | reset (cfg : Config)
  /-- A change of configuration while the block runs (70_reset_and_hazards R164). -/
  | configure (cfg : Config)
deriving DecidableEq, Repr

/-- The state of one block instance (60_exceptions R147, notes/assumptions/12.md) and of its environment. The registers
without a width are numbers, whose ranges are an invariant (notes/assumptions/14.md). -/
structure State where
  /-- The configuration (10_state R27): read-only, held here because the step has no other argument
  (notes/assumptions/1.md). -/
  cfg       : Config
  /-- `R_STATE` -/
  rState    : ReaderState
  /-- `R_BUF` -/
  rBuf      : Memory
  /-- `R_COUNT` -/
  rCount    : Nat
  /-- `R_LEN` -/
  rLen      : BitVec 10
  /-- `R_DISC` -/
  rDisc     : Nat
  /-- `R_RETRY` -/
  rRetry    : Nat
  transport : Transport
  schedule  : List Event
  /-- The responses delivered, oldest first. -/
  replies   : List Reply
deriving DecidableEq, Repr

/-- Why the machine stops. None is reachable from a state that meets `Safety.ReaderInv`; all are safe (the machine stops). -/
inductive Fault where
  /-- Raised by a read of an `R_BUF` byte that holds no value (10_state R35; 93 row 10 "fault if read (no value)"). Safe. -/
  | bufferByteUnwritten
  /-- Raised by an access to an `R_BUF` index above 1022 (20_memory R45). Safe. -/
  | bufferIndexOutside
  /-- Raised where a reader step would request no byte (20_memory R50: "`TRead(0)` is never issued"; 42_reader R116: an idle
  reader has no step). Safe. -/
  | noReaderStep
deriving DecidableEq, Repr

/-- What the model gives no meaning to. -/
inductive Refusal where
  /-- Raised by an arm of `exec` for a command without a meaning; no arm raises it. Safe. -/
  | notModelled (mnemonic : String)
  /-- Raised by the step in a configuration outside its legal values, and by a reset to one (10_state R27: "refused by the
  model"). Safe. -/
  | illegalConfiguration
  /-- Raised by a change of configuration outside reset (70_reset_and_hazards R164: "a model refuses it"). Safe. -/
  | configurationChange
  /-- Raised by a command record whose operands are not of its code's types, which "cannot be written" (30_encoding R73). Safe. -/
  | operandTypes
deriving DecidableEq, Repr

/-- The block right after reset (10_state R35), in `DUML_DEFAULT` with the two OPEN parameters at the values of
notes/assumptions/3.md, beside an environment that has done nothing: no command issued, no response delivered, no byte
consumed, and a transport whose answers are free (notes/assumptions/5.md, 6.md, 7.md, 8.md). -/
def State.reset : State where
  cfg := Config.dumlDefault none 3
  rState := .idle
  rBuf := []
  rCount := 0
  rLen := 0
  rDisc := 0
  rRetry := 0
  transport := { script := [], tail := .free, pos := 0, draws := 0 }
  schedule := []
  replies := []

end Sys2Proof.Machine
end

