-- ==== Sys2Proof/Machine/Operands.lean ====
section
/-! DEFINITION. Byte sequences and the fields read from them (00_scope R13, 30_encoding R65, R66, R78). Every number is unsigned.
-/
namespace Sys2Proof.Machine

/-- `s[i]` (00_scope R13). Every rule that reads `s[i]` has `i < |s|`; beyond the end this answers 0, which no rule
reads (notes/assumptions/13.md). -/
def byteAt (s : List Byte) (i : Nat) : Byte := s.getD i 0

/-- `s[i..j]`, the bytes from index `i` to `j` inclusive, empty when `j < i` (00_scope R13). -/
def slice (s : List Byte) (i j : Nat) : List Byte := (s.drop i).take (j + 1 - i)

/-- `le16(v)`: the low byte first (00_scope R13, 20_memory R53). -/
def le16 (v : Half) : List Byte := [v.extractLsb' 0 8, v.extractLsb' 8 8]

/-- The 16-bit value of a low and a high byte (20_memory R53). -/
def half (lo hi : Byte) : Half := lo.setWidth 16 ||| (hi.setWidth 16 <<< 8)

/-- `rd16(s, i) = s[i] | (s[i+1] << 8)` (00_scope R13). -/
def rd16 (s : List Byte) (i : Nat) : Half := half (byteAt s i) (byteAt s (i + 1))

/-- `decodeLen(b1, b2)`: bits 9:0 of the length word (30_encoding R66). -/
def decodeLen (b1 b2 : Byte) : BitVec 10 := (half b1 b2).extractLsb' 0 10

/-- The version bits: bits 15:10 of the length word, `f[2][7:2]` (30_encoding R65). -/
def versionBits (b2 : Byte) : BitVec 6 := b2.extractLsb' 2 6

/-- The length word `L | (P_VERSION << 10)` (41_codec R97). -/
def lengthWord (version : BitVec 6) (len : Nat) : Half :=
  BitVec.ofNat 16 len ||| (version.setWidth 16 <<< 10)

end Sys2Proof.Machine
end

