-- ==== Sys2Proof/Machine/Checksum.lean ====
section
/-! DEFINITION. The two checksum functions (40_checksums R86 to R92). The tables are computed by the spec's own definition
of their entries; the tests hold them against the printed rows.
-/
namespace Sys2Proof.Machine

/-- `k` shifts of the reflected polynomial `0x8C` (40_checksums R88). -/
def crc8Shift : Nat → Byte → Byte
  | 0, c => c
  | k + 1, c => crc8Shift k (if c &&& 1 = 1 then (c >>> 1) ^^^ 0x8C else c >>> 1)

/-- `T8[i]` (40_checksums R88). -/
def t8 (i : Byte) : Byte := crc8Shift 8 i

/-- `P_HDRCK` of `DUML_DEFAULT` (40_checksums R87): `c <- T8[(s[i] ^ c) & 0xFF]` for each byte. -/
def dumlHdrck (seed : Byte) (s : List Byte) : Byte := s.foldl (fun c b => t8 (b ^^^ c)) seed

/-- `k` shifts of the reflected polynomial `0x8408` (40_checksums R91). -/
def crc16Shift : Nat → Half → Half
  | 0, c => c
  | k + 1, c => crc16Shift k (if c &&& 1 = 1 then (c >>> 1) ^^^ 0x8408 else c >>> 1)

/-- `T16[i]` (40_checksums R91). -/
def t16 (i : Byte) : Half := crc16Shift 8 (i.setWidth 16)

/-- One byte of `P_FRMCK` of `DUML_DEFAULT`: `v <- (v >> 8) ^ T16[(b ^ v) & 0xFF]` (40_checksums R90). -/
def crc16Step (v : Half) (b : Byte) : Half := (v >>> 8) ^^^ t16 (b ^^^ v.setWidth 8)

/-- `P_FRMCK` of `DUML_DEFAULT` (40_checksums R90): no final XOR. -/
def dumlFrmck (init : Half) (s : List Byte) : Half := s.foldl crc16Step init

/-- The bit-serial form of `P_HDRCK` (40_checksums R92). -/
def serialHdrck (seed : Byte) (s : List Byte) : Byte := s.foldl (fun c b => crc8Shift 8 (c ^^^ b)) seed

/-- The bit-serial form of `P_FRMCK` (40_checksums R92). -/
def serialFrmck (init : Half) (s : List Byte) : Half := s.foldl (fun v b => crc16Shift 8 (v ^^^ b.setWidth 16)) init

/-- `P_HDRCK` of a configuration, with any seed. -/
def HdrAlg.run : HdrAlg → Byte → List Byte → Byte
  | .dumlCrc8, seed, s => dumlHdrck seed s
  | .other k, seed, s => Config.otherHdrck k seed s

/-- `P_FRMCK` of a configuration, with any initial value. -/
def FrmAlg.run : FrmAlg → Half → List Byte → Half
  | .dumlCrc16, init, s => dumlFrmck init s
  | .other k, init, s => Config.otherFrmck k init s

/-- `HDRCK`: `P_HDRCK(P_HDR_SEED, s)` (40_checksums R86). -/
def hdrck (cfg : Config) (s : List Byte) : Byte := HdrAlg.run cfg.hdrAlg cfg.hdrSeed s

/-- `FRMCK`: `P_FRMCK(P_FRMCK_INIT, s)` (40_checksums R89). -/
def frmck (cfg : Config) (s : List Byte) : Half := FrmAlg.run cfg.frmAlg cfg.frmInit s

end Sys2Proof.Machine
end

