-- ==== Sys2Proof/Machine/Flags.lean ====
section
/-! DEFINITION. The block has no flags (10_state R32); its statuses take their place: numeric codes and classes
(60_exceptions R136) and the two shapes of a response (10_state R30).
-/
namespace Sys2Proof.Machine

/-- The numeric code of a status (60_exceptions R136). -/
def Status.code : Status → Byte
  | .ok => 0x00
  | .transportError => 0x01
  | .tooShort => 0x10
  | .badMagic => 0x11
  | .lengthMismatch => 0x12
  | .noMagic => 0x13
  | .shortRead => 0x14
  | .timeout => 0x15
  | .badLength => 0x16
  | .headerChecksum => 0x20
  | .frameChecksum => 0x21
  | .tooLong => 0x30
  | .aborted => 0x40
  | .illegalCommand => 0xF0
  | .busy => 0xF1

/-- The classes of 60_exceptions R136. -/
inductive ErrorClass where
  | transport | framing | checksum | build
deriving DecidableEq, Repr

/-- The class of a status, `none` where R136 gives none. -/
def Status.errorClass : Status → Option ErrorClass
  | .transportError => some .transport
  | .tooShort | .badMagic | .lengthMismatch | .noMagic | .shortRead | .timeout | .badLength => some .framing
  | .headerChecksum | .frameChecksum => some .checksum
  | .tooLong => some .build
  | .ok | .aborted | .illegalCommand | .busy => none

/-- `respond(OK, data)`: for OK, `info` is empty (10_state R30). -/
def Response.success (d : Data) : Response := ⟨.ok, d, .nothing⟩

/-- `raise E(info)`: for every status other than OK, `data` is empty (10_state R30, 00_scope R14). -/
def Response.failure (st : Status) (info : Info) : Response := ⟨st, .empty, info⟩

end Sys2Proof.Machine
end

