-- ==== Sys2Proof/Machine/Ops.lean ====
section
/-! DEFINITION. The operations the meanings share: the buffer's bytes, the transport's read primitive, delivering a
response, ending a call, reset. The block has no trap mechanism (60_exceptions R141): what an error does is end the
command with its response, and `State.endCall` is the one place where a reader call ends.
-/
namespace Sys2Proof.Machine

/-! ### `R_BUF` (10_state R22, 20_memory R45) -/

/-- The canonical form: indices strictly rising and below 1023. An index not listed holds no value, so no entry can
repeat it. -/
abbrev Memory.wf (m : Memory) : Prop :=
  m.Pairwise (fun c d => c.1 < d.1) ∧ ∀ c ∈ m, c.1 < maxFrame

/-- `BUF[i]`: one byte, `none` where the byte holds no value (10_state R35). -/
def Memory.read : Memory → Nat → Option Byte
  | [], _ => none
  | (k, v) :: rest, i => if i = k then some v else Memory.read rest i

/-- `BUF[i] <- v`. -/
def Memory.write : Memory → Nat → Byte → Memory
  | [], i, b => [(i, b)]
  | (k, v) :: rest, i, b =>
    if i < k then (i, b) :: (k, v) :: rest
    else if i = k then (i, b) :: rest
    else (k, v) :: Memory.write rest i b

/-- `BUF[i ..] <- bs`, one byte at a time in rising index order (20_memory R56). -/
def Memory.writeBytes : Memory → Nat → List Byte → Memory
  | m, _, [] => m
  | m, i, b :: bs => Memory.writeBytes (Memory.write m i b) (i + 1) bs

/-- `BUF[i .. i + n - 1]`, `none` where one of the bytes holds no value. -/
def Memory.readBytes (m : Memory) : Nat → Nat → Option (List Byte)
  | _, 0 => some []
  | i, n + 1 =>
    match Memory.read m i, Memory.readBytes m (i + 1) n with
    | some b, some bs => some (b :: bs)
    | _, _ => none

/-- A store of bytes into `R_BUF`; it faults above index 1022. -/
def Memory.store (m : Memory) (i : Nat) (bs : List Byte) : Except Fault Memory :=
  if i + bs.length ≤ maxFrame then .ok (Memory.writeBytes m i bs) else .error .bufferIndexOutside

/-- A load of `n` bytes from `R_BUF`; it faults above index 1022 and on a byte without a value. -/
def Memory.load (m : Memory) (i n : Nat) : Except Fault (List Byte) :=
  if i + n ≤ maxFrame then
    match Memory.readBytes m i n with
    | some bs => .ok bs
    | none => .error .bufferByteUnwritten
  else .error .bufferIndexOutside

/-! ### The transport (20_memory R50, R51) -/

/-- `TRead(n)`: the answer and the transport after it. A scripted piece longer than the request is handed out in parts,
so at most `n` bytes are delivered, in stream order, and no byte is delivered twice. -/
def Transport.read (t : Transport) (n : Nat) : Answer × Transport :=
  match t.script with
  | .terr :: rest => (.terr, { t with script := rest })
  | .bytes b :: rest =>
    if b.length ≤ n then (.bytes b, { t with script := rest, pos := t.pos + b.length })
    else (.bytes (b.take n), { t with script := .bytes (b.drop n) :: rest, pos := t.pos + n })
  | [] =>
    match t.tail with
    | .silent => (.bytes [], t)
    | .endless b => (.bytes (List.replicate n b), { t with pos := t.pos + n })
    | .free =>
      match Config.draw t.draws n with
      | .terr => (.terr, { t with draws := t.draws + 1 })
      | .bytes b => (.bytes (b.take n), { t with pos := t.pos + (b.take n).length, draws := t.draws + 1 })

/-! ### Responses and the ends of calls (10_state R30, 60_exceptions R136, R141) -/

/-- `respond`: one response, to the command with code `op`. A response is the only way state leaves the block. -/
def State.reply (s : State) (op : Byte) (r : Response) : State :=
  { s with replies := s.replies ++ [⟨op, r⟩] }

/-- The end of the NEXT_FRAME call in progress: its one response, and the reader idle. Every other register keeps its
value (10_state R35), nothing is saved and no control moves (60_exceptions R141). -/
def State.endCall (s : State) (r : Response) : State :=
  { s.reply 0x03 r with rState := .idle }

/-- The end of a call by an error: the code's status, no data (60_exceptions R136, R137). -/
def State.raise (s : State) (st : Status) (info : Info) : State :=
  s.endCall (Response.failure st info)

/-- The start of a NEXT_FRAME call (42_reader R113). -/
def State.startCall (s : State) : State :=
  { s with rState := .scan, rCount := 0, rDisc := 0, rRetry := 0 }

/-- Reset (10_state R35, 70_reset_and_hazards R156): the reader registers, with no response; the configuration is the one set
for this reset; the transport and what the client has been told stay. -/
def State.resetBlock (s : State) (cfg : Config) : State :=
  { s with cfg := cfg, rState := .idle, rBuf := [], rCount := 0, rLen := 0, rDisc := 0, rRetry := 0 }

end Sys2Proof.Machine
end

