-- ==== Sys2Proof/Machine/Codec.lean ====
section
/-! DEFINITION. The codec unit: BUILD (41_codec R97) and PARSE (41_codec R103). Both are functions of the operands and the
configuration alone (10_state R21).
-/
namespace Sys2Proof.Machine

/-- The frame of BUILD, byte by byte (41_codec R97, 30_encoding R64). -/
def buildFrame (cfg : Config) (seq : Half) (src dst ctype cset cid : Byte) (payload : List Byte) : List Byte :=
  let w := lengthWord cfg.version (overhead + payload.length)
  let start := cfg.magic :: le16 w
  let f := start ++ [hdrck cfg start] ++ [src, dst] ++ le16 seq ++ [ctype, cset, cid] ++ payload
  f ++ le16 (frmck cfg f)

/-- BUILD's response (41_codec R97): the length is not truncated before the test (R98). -/
def buildResponse (cfg : Config) (seq : Half) (src dst ctype cset cid : Byte) (payload : List Byte) : Response :=
  if overhead + payload.length > maxFrame then
    .failure .tooLong (.computedLength (overhead + payload.length))
  else .success (.bytes (buildFrame cfg seq src dst ctype cset cid payload))

/-- The record PARSE makes of a frame (41_codec R103, 10_state R31). The payload is a copy (20_memory R59). -/
def frameOf (s : List Byte) : Frame where
  length := decodeLen (byteAt s 1) (byteAt s 2)
  version := versionBits (byteAt s 2)
  headerChecksum := byteAt s 3
  sourceAddress := byteAt s 4
  targetAddress := byteAt s 5
  sequenceNumber := rd16 s 6
  commandType := byteAt s 8
  commandSet := byteAt s 9
  commandId := byteAt s 10
  payload := slice s 11 (s.length - 3)
  payloadOffset := 11
  frameChecksum := rd16 s (s.length - 2)

/-- PARSE's response (41_codec R103): the checks in the listed order, the first failure reported (R102). -/
def parseResponse (cfg : Config) (s : List Byte) : Response :=
  let len := (decodeLen (byteAt s 1) (byteAt s 2)).toNat
  if s.length < overhead then .failure .tooShort (.inputLength s.length)
  else if byteAt s 0 ≠ cfg.magic then .failure .badMagic (.byteFound (byteAt s 0))
  else if len ≠ s.length then .failure .lengthMismatch (.lengths len s.length)
  else if byteAt s 3 ≠ hdrck cfg (slice s 0 2) then .failure .headerChecksum (.storedHeader (byteAt s 3))
  else if rd16 s (len - 2) ≠ frmck cfg (slice s 0 (len - 3)) then
    .failure .frameChecksum (.storedFrame (rd16 s (len - 2)))
  else .success (.frame (frameOf s))

/-- The predicate `Valid(f)` (30_encoding R76). -/
abbrev Valid (cfg : Config) (f : List Byte) : Prop :=
  overhead ≤ f.length ∧
  byteAt f 0 = cfg.magic ∧
  (decodeLen (byteAt f 1) (byteAt f 2)).toNat = f.length ∧
  byteAt f 3 = hdrck cfg (slice f 0 2) ∧
  rd16 f (f.length - 2) = frmck cfg (slice f 0 (f.length - 3))

/-- BUILD. -/
def execBuild (seq : Half) (src dst ctype cset cid : Byte) (payload : List Byte) (s : State) :
    Host.Outcome State Fault Refusal :=
  .next (s.reply 0x01 (buildResponse s.cfg seq src dst ctype cset cid payload))

/-- PARSE. -/
def execParse (bytes : List Byte) (s : State) : Host.Outcome State Fault Refusal :=
  .next (s.reply 0x02 (parseResponse s.cfg bytes))

end Sys2Proof.Machine
end

