-- ==== Sys2Proof/Machine/Reader.lean ====
section
/-! DEFINITION. The reader unit: NEXT_FRAME (42_reader R113), ABORT (R125), and the reader's steps (R115 to R122).
-/
namespace Sys2Proof.Machine

/-- NEXT_FRAME (42_reader R113): BUSY while a call is in progress, else the call starts; its response comes from a reader
step or from ABORT. -/
def execNextFrame (s : State) : Host.Outcome State Fault Refusal :=
  if s.rState = .idle then .next s.startCall
  else .next (s.reply 0x03 (.failure .busy .nothing))

/-- ABORT (42_reader R125): the call in progress responds ABORTED, then ABORT responds OK; an idle reader is left as it
is. -/
def execAbort (s : State) : Host.Outcome State Fault Refusal :=
  if s.rState = .idle then .next (s.reply 0x04 (.success .empty))
  else .next ((s.raise .aborted .nothing).reply 0x04 (.success .empty))

/-- `need`: how many bytes the next step requests (42_reader R116); 0 where the reader has no step. -/
def need (s : State) : Nat :=
  match s.rState with
  | .idle => 0
  | .scan => 1
  | .hdr => hdrLen - s.rCount
  | .body => s.rLen.toNat - s.rCount

/-- `ps`: the buffer index at which the phase starts (42_reader R116). An idle reader is in no phase
(notes/assumptions/13.md). -/
def phaseStart : ReaderState → Nat
  | .idle => 0
  | .scan => 0
  | .hdr => 1
  | .body => 4

/-- The end of a call with its candidate, `R_BUF[0 .. n-1]` (42_reader R114). -/
def deliver (n : Nat) (s : State) : Host.Outcome State Fault Refusal :=
  match Memory.load s.rBuf 0 n with
  | .ok c => .next (s.endCall (.success (.bytes c)))
  | .error f => .fault f

/-- A SCAN step's byte (42_reader R117). -/
def scanByte (b : Byte) (s : State) : Host.Outcome State Fault Refusal :=
  if b = s.cfg.magic then
    match Memory.store s.rBuf 0 [b] with
    | .ok m => .next { s with rBuf := m, rCount := 1, rState := .hdr, rRetry := 0 }
    | .error f => .fault f
  else
    let s' := { s with rDisc := s.rDisc + 1, rRetry := 0 }
    if s.cfg.scanBound = some s'.rDisc then .next (s'.raise .noMagic (.discarded s'.rDisc)) else .next s'

/-- The length decode, in the step that completes the link header (42_reader R119). -/
def decodeLength (s : State) : Host.Outcome State Fault Refusal :=
  match Memory.load s.rBuf 1 2 with
  | .ok h =>
    let len := decodeLen (byteAt h 0) (byteAt h 1)
    if len.toNat < 4 then .next (s.raise .badLength (.decodedLength len.toNat))
    else if len.toNat = 4 then deliver 4 { s with rLen := len }
    else .next { s with rLen := len, rState := .body, rRetry := 0 }
  | .error f => .fault f

/-- A full answer in HDR (42_reader R118). -/
def headerFull (b : List Byte) (s : State) : Host.Outcome State Fault Refusal :=
  match Memory.store s.rBuf s.rCount b with
  | .ok m => decodeLength { s with rBuf := m, rCount := 4, rRetry := 0 }
  | .error f => .fault f

/-- A full answer in BODY (42_reader R120; R121: "any delivered byte resets the count", notes/assumptions/9.md). -/
def bodyFull (b : List Byte) (s : State) : Host.Outcome State Fault Refusal :=
  match Memory.store s.rBuf s.rCount b with
  | .ok m => deliver s.rLen.toNat { s with rBuf := m, rCount := s.rLen.toNat, rRetry := 0 }
  | .error f => .fault f

/-- A short answer in HDR or BODY (42_reader R122): the strict reading fails the call and drops the bytes, the
accumulating one keeps them. In both a byte was delivered, so the count of empty answers restarts (R121,
notes/assumptions/9.md). -/
def shortAnswer (b : List Byte) (requested : Nat) (s : State) : Host.Outcome State Fault Refusal :=
  if s.cfg.accumulate then
    match Memory.store s.rBuf s.rCount b with
    | .ok m => .next { s with rBuf := m, rCount := s.rCount + b.length, rRetry := 0 }
    | .error f => .fault f
  else .next ({ s with rRetry := 0 }.raise .shortRead (.delivered b.length requested))

/-- An empty answer (42_reader R121). -/
def emptyAnswer (s : State) : Host.Outcome State Fault Refusal :=
  let s' := { s with rRetry := s.rRetry + 1 }
  if s'.rRetry = s.cfg.retryBudget then
    let got := s.rCount - phaseStart s.rState
    if got > 0 then .next (s'.raise .shortRead (.held got))
    else .next (s'.raise .timeout (.retries s'.rRetry))
  else .next s'

/-- What a reader step does with the answer to its request (42_reader R115 to R122). -/
def takeAnswer (a : Answer) (requested : Nat) (s : State) : Host.Outcome State Fault Refusal :=
  match a with
  | .terr => .next (s.raise .transportError .nothing)
  | .bytes [] => emptyAnswer s
  | .bytes (b :: bs) =>
    match s.rState with
    | .idle => .fault .noReaderStep
    | .scan => scanByte b s
    | .hdr => if (b :: bs).length = requested then headerFull (b :: bs) s else shortAnswer (b :: bs) requested s
    | .body => if (b :: bs).length = requested then bodyFull (b :: bs) s else shortAnswer (b :: bs) requested s

/-- One reader step: one request and its answer, atomic (42_reader R115, R116, 20_memory R58). -/
def readerStep (s : State) : Host.Outcome State Fault Refusal :=
  if need s = 0 then .fault .noReaderStep
  else
    takeAnswer (Transport.read s.transport (need s)).1 (need s)
      { s with transport := (Transport.read s.transport (need s)).2 }

end Sys2Proof.Machine
end

