-- ==== Sys2Proof/Machine/Dispatch.lean ====
section
/-! DEFINITION. One arm per command: its meaning. -/
namespace Sys2Proof.Machine

def exec (i : Instr) (s : State) : Host.Outcome State Fault Refusal :=
  match i with
  | .build seq src dst ctype cset cid payload => Sys2Proof.Machine.execBuild seq src dst ctype cset cid payload s
  | .parse bytes => Sys2Proof.Machine.execParse bytes s
  | .nextFrame => Sys2Proof.Machine.execNextFrame s
  | .abort => Sys2Proof.Machine.execAbort s

end Sys2Proof.Machine
end

