-- ==== Sys2Proof/Machine/Schedule.lean ====
section
/-! DEFINITION. What one step does: the head of the schedule, or, with an empty schedule, the reader's next step; an idle
block with nothing scheduled waits (70_reset_and_hazards R156: "the block runs nothing until the client issues a command").
-/
namespace Sys2Proof.Machine

/-- The schedule after its head is taken. -/
def State.withSchedule (s : State) (es : List Event) : State := { s with schedule := es }

/-- The response to a reserved command code: no other state changes (30_encoding R74). -/
def reservedCommand (op : Byte) (s : State) : Host.Outcome State Fault Refusal :=
  .next (s.reply op (.failure .illegalCommand .nothing))

/-- A command record is decoded and run (30_encoding R72, R74; 60_exceptions R140 (a)). -/
def runCommand (c : Command) (s : State) : Host.Outcome State Fault Refusal :=
  match decode c with
  | .ok i => exec i s
  | .error (.reservedCode op) => reservedCommand op s
  | .error (.operandTypes _) => .refused .operandTypes

/-- The reader's turn: a step where it has one, else nothing (42_reader R116). -/
def readerTurn (s : State) : Host.Outcome State Fault Refusal :=
  if s.rState = .idle then .next s else readerStep s

/-- Reset to a legal configuration; another is refused (10_state R27, 70_reset_and_hazards R156). -/
def resetTo (cfg : Config) (s : State) : Host.Outcome State Fault Refusal :=
  if cfg.legal then .next (s.resetBlock cfg) else .refused .illegalConfiguration

/-- A configuration set while the block runs: refused where it is a change (70_reset_and_hazards R164). -/
def configure (cfg : Config) (s : State) : Host.Outcome State Fault Refusal :=
  if cfg = s.cfg then .next s else .refused .configurationChange

/-- One event, in the state whose schedule no longer holds it. -/
def runEvent (e : Event) (s : State) : Host.Outcome State Fault Refusal :=
  match e with
  | .command c => runCommand c s
  | .readerTurn => readerTurn s
  | .reset cfg => resetTo cfg s
  | .configure cfg => configure cfg s

/-- What happens next in a legal configuration. -/
def runNext (s : State) : Host.Outcome State Fault Refusal :=
  match s.schedule with
  | [] => readerTurn s
  | e :: es => runEvent e (s.withSchedule es)

end Sys2Proof.Machine
end

