-- ==== Sys2Proof/Machine/Step.lean ====
section
/-! DEFINITION. One step of the machine, and a command placed where the step takes its next one. -/
namespace Sys2Proof.Machine

/-- One step. "A configuration outside these is refused by the model (no run is defined for it)" (10_state R27). -/
def step (s : State) : Host.Outcome State Fault Refusal :=
  if s.cfg.legal then runNext s else .refused .illegalConfiguration

/-- The command of a table word, its operands zeros, as the next event (notes/assumptions/7.md). -/
def State.withFetchWord (s : State) (nbits w : Nat) : State :=
  s.withSchedule (.command (tableCommand (w % 2 ^ nbits)) :: s.schedule)

end Sys2Proof.Machine
end

