-- ==== Sys2Proof/Machine/Client.lean ====
section
/-! DEFINITION. What the client makes of the block's responses, as far as the spec describes it: the pseudo-command RECV
(30_encoding R81), the telemetry payload layout (R83, R84), and the sequence counter's advance (60_exceptions R149). No
command of the block uses any of it (30_encoding R82, 00_scope R7).
-/
namespace Sys2Proof.Machine

/-- RECV's result from NEXT_FRAME's response (30_encoding R81): the PARSE response of an OK candidate, else the response
itself. -/
def recvResponse (cfg : Config) (r : Response) : Response :=
  match r.status, r.data with
  | .ok, .bytes c => parseResponse cfg c
  | _, _ => r

/-- The five fields of a telemetry payload (30_encoding R83). -/
structure Telemetry where
  rightHorizontal : Half
  rightVertical   : Half
  leftVertical    : Half
  leftHorizontal  : Half
  cameraDial      : Half
deriving DecidableEq, Repr

/-- The telemetry fields of a parsed frame: "only if frame length is exactly 38 bytes" (30_encoding R83, R84). -/
def telemetryOf (f : Frame) : Option Telemetry :=
  if f.length = 38 then
    some ⟨rd16 f.payload 2, rd16 f.payload 5, rd16 f.payload 8, rd16 f.payload 11, rd16 f.payload 14⟩
  else none

/-- The client's sequence counter after a frame is sent, wrapping at 16 bits (60_exceptions R149). -/
def nextSequence (seq : Half) : Half := seq + 1

end Sys2Proof.Machine
end

