-- ==== Sys2Proof/Safety.lean ====
section
/-! DEFINITION. What a safe state is, in the terms the statements use: the invariants of 10_state R22, R24 and R27, the shape of
responses, and the words of the checksum and stream properties.
-/
namespace Sys2Proof.Safety

open Sys2Proof.Machine

/-- The reader is busy (10_state R26). -/
abbrev Busy (s : State) : Prop := s.rState ≠ .idle

/-- The invariants of the reader registers (10_state R24), the ranges of R22, the legal configuration of R27, the buffer's
canonical form, and that the first `R_COUNT` bytes of `R_BUF` hold values (R22). -/
structure ReaderInv (s : State) : Prop where
  legal  : s.cfg.legal = true
  bufWf  : Memory.wf s.rBuf
  count  : s.rCount ≤ maxFrame
  held   : ∀ i < s.rCount, (Memory.read s.rBuf i).isSome = true
  disc   : ∀ b, s.cfg.scanBound = some b → s.rDisc ≤ b ∧ (Busy s → s.rDisc < b)
  retry  : s.rRetry ≤ s.cfg.retryBudget ∧ (Busy s → s.rRetry < s.cfg.retryBudget)
  scan   : s.rState = .scan → s.rCount = 0
  hdr    : s.rState = .hdr → 1 ≤ s.rCount ∧ s.rCount ≤ 3 ∧ Memory.read s.rBuf 0 = some s.cfg.magic
  body   : s.rState = .body → 4 ≤ s.rCount ∧ s.rCount < s.rLen.toNat ∧ Memory.read s.rBuf 0 = some s.cfg.magic ∧
             ∃ b1 b2, Memory.read s.rBuf 1 = some b1 ∧ Memory.read s.rBuf 2 = some b2 ∧ s.rLen = decodeLen b1 b2

/-- The shape of a response (10_state R30): a failing one carries no data, an OK one no info, and an OK one the data of its
command. -/
def ReplyShaped (r : Reply) : Prop :=
  (r.response.status ≠ .ok → r.response.data = .empty) ∧
  (r.response.status = .ok → r.response.info = .nothing ∧
    ((r.op = 0x01 ∧ ∃ f, r.response.data = .bytes f) ∨ (r.op = 0x02 ∧ ∃ f, r.response.data = .frame f) ∨
     (r.op = 0x03 ∧ ∃ c, r.response.data = .bytes c) ∨ (r.op = 0x04 ∧ r.response.data = .empty)))

/-- The bytes a list of scripted answers hands out, in stream order. -/
def scripted : List Answer → List Byte
  | [] => []
  | .terr :: rest => scripted rest
  | .bytes b :: rest => b ++ scripted rest

/-- `s` with bit `j` of the byte at index `i` flipped. -/
def flipBit (s : List Byte) (i j : Nat) : List Byte :=
  s.set i (byteAt s i ^^^ BitVec.twoPow 8 j)

/-- The property of 40_checksums R94: one flipped bit in three bytes changes the header checksum. -/
def HdrSensitive (cfg : Config) : Prop :=
  ∀ (s : List Byte) (i j : Nat), s.length = 3 → i < 3 → j < 8 → hdrck cfg (flipBit s i j) ≠ hdrck cfg s

/-- The property of 40_checksums R95: one flipped bit in at most 1021 bytes changes the frame checksum. -/
def FrmSensitive (cfg : Config) : Prop :=
  ∀ (s : List Byte) (i j : Nat), s.length ≤ 1021 → i < s.length → j < 8 → frmck cfg (flipBit s i j) ≠ frmck cfg s

/-- The response a NEXT_FRAME call ends with: a response to code 0x03 other than BUSY, which ends no call (42_reader R113,
R114). -/
abbrev endsCall (r : Reply) : Bool := decide (r.op = 0x03 ∧ r.response.status ≠ .busy)

/-- The printed table `T8` (40_checksums R88): row `r` holds `T8[16 r .. 16 r + 15]`. -/
def printedT8 : List (List Nat) :=
  [[0x00, 0x5E, 0xBC, 0xE2, 0x61, 0x3F, 0xDD, 0x83, 0xC2, 0x9C, 0x7E, 0x20, 0xA3, 0xFD, 0x1F, 0x41],
   [0x9D, 0xC3, 0x21, 0x7F, 0xFC, 0xA2, 0x40, 0x1E, 0x5F, 0x01, 0xE3, 0xBD, 0x3E, 0x60, 0x82, 0xDC],
   [0x23, 0x7D, 0x9F, 0xC1, 0x42, 0x1C, 0xFE, 0xA0, 0xE1, 0xBF, 0x5D, 0x03, 0x80, 0xDE, 0x3C, 0x62],
   [0xBE, 0xE0, 0x02, 0x5C, 0xDF, 0x81, 0x63, 0x3D, 0x7C, 0x22, 0xC0, 0x9E, 0x1D, 0x43, 0xA1, 0xFF],
   [0x46, 0x18, 0xFA, 0xA4, 0x27, 0x79, 0x9B, 0xC5, 0x84, 0xDA, 0x38, 0x66, 0xE5, 0xBB, 0x59, 0x07],
   [0xDB, 0x85, 0x67, 0x39, 0xBA, 0xE4, 0x06, 0x58, 0x19, 0x47, 0xA5, 0xFB, 0x78, 0x26, 0xC4, 0x9A],
   [0x65, 0x3B, 0xD9, 0x87, 0x04, 0x5A, 0xB8, 0xE6, 0xA7, 0xF9, 0x1B, 0x45, 0xC6, 0x98, 0x7A, 0x24],
   [0xF8, 0xA6, 0x44, 0x1A, 0x99, 0xC7, 0x25, 0x7B, 0x3A, 0x64, 0x86, 0xD8, 0x5B, 0x05, 0xE7, 0xB9],
   [0x8C, 0xD2, 0x30, 0x6E, 0xED, 0xB3, 0x51, 0x0F, 0x4E, 0x10, 0xF2, 0xAC, 0x2F, 0x71, 0x93, 0xCD],
   [0x11, 0x4F, 0xAD, 0xF3, 0x70, 0x2E, 0xCC, 0x92, 0xD3, 0x8D, 0x6F, 0x31, 0xB2, 0xEC, 0x0E, 0x50],
   [0xAF, 0xF1, 0x13, 0x4D, 0xCE, 0x90, 0x72, 0x2C, 0x6D, 0x33, 0xD1, 0x8F, 0x0C, 0x52, 0xB0, 0xEE],
   [0x32, 0x6C, 0x8E, 0xD0, 0x53, 0x0D, 0xEF, 0xB1, 0xF0, 0xAE, 0x4C, 0x12, 0x91, 0xCF, 0x2D, 0x73],
   [0xCA, 0x94, 0x76, 0x28, 0xAB, 0xF5, 0x17, 0x49, 0x08, 0x56, 0xB4, 0xEA, 0x69, 0x37, 0xD5, 0x8B],
   [0x57, 0x09, 0xEB, 0xB5, 0x36, 0x68, 0x8A, 0xD4, 0x95, 0xCB, 0x29, 0x77, 0xF4, 0xAA, 0x48, 0x16],
   [0xE9, 0xB7, 0x55, 0x0B, 0x88, 0xD6, 0x34, 0x6A, 0x2B, 0x75, 0x97, 0xC9, 0x4A, 0x14, 0xF6, 0xA8],
   [0x74, 0x2A, 0xC8, 0x96, 0x15, 0x4B, 0xA9, 0xF7, 0xB6, 0xE8, 0x0A, 0x54, 0xD7, 0x89, 0x6B, 0x35]]

/-- The printed table `T16` (40_checksums R91), first half: row `r` holds `T16[8 r .. 8 r + 7]`. -/
def printedT16Low : List (List Nat) :=
  [[0x0000, 0x1189, 0x2312, 0x329B, 0x4624, 0x57AD, 0x6536, 0x74BF],
   [0x8C48, 0x9DC1, 0xAF5A, 0xBED3, 0xCA6C, 0xDBE5, 0xE97E, 0xF8F7],
   [0x1081, 0x0108, 0x3393, 0x221A, 0x56A5, 0x472C, 0x75B7, 0x643E],
   [0x9CC9, 0x8D40, 0xBFDB, 0xAE52, 0xDAED, 0xCB64, 0xF9FF, 0xE876],
   [0x2102, 0x308B, 0x0210, 0x1399, 0x6726, 0x76AF, 0x4434, 0x55BD],
   [0xAD4A, 0xBCC3, 0x8E58, 0x9FD1, 0xEB6E, 0xFAE7, 0xC87C, 0xD9F5],
   [0x3183, 0x200A, 0x1291, 0x0318, 0x77A7, 0x662E, 0x54B5, 0x453C],
   [0xBDCB, 0xAC42, 0x9ED9, 0x8F50, 0xFBEF, 0xEA66, 0xD8FD, 0xC974],
   [0x4204, 0x538D, 0x6116, 0x709F, 0x0420, 0x15A9, 0x2732, 0x36BB],
   [0xCE4C, 0xDFC5, 0xED5E, 0xFCD7, 0x8868, 0x99E1, 0xAB7A, 0xBAF3],
   [0x5285, 0x430C, 0x7197, 0x601E, 0x14A1, 0x0528, 0x37B3, 0x263A],
   [0xDECD, 0xCF44, 0xFDDF, 0xEC56, 0x98E9, 0x8960, 0xBBFB, 0xAA72],
   [0x6306, 0x728F, 0x4014, 0x519D, 0x2522, 0x34AB, 0x0630, 0x17B9],
   [0xEF4E, 0xFEC7, 0xCC5C, 0xDDD5, 0xA96A, 0xB8E3, 0x8A78, 0x9BF1],
   [0x7387, 0x620E, 0x5095, 0x411C, 0x35A3, 0x242A, 0x16B1, 0x0738],
   [0xFFCF, 0xEE46, 0xDCDD, 0xCD54, 0xB9EB, 0xA862, 0x9AF9, 0x8B70]]

/-- The printed table `T16` (40_checksums R91), second half: row `r` holds `T16[128 + 8 r .. 128 + 8 r + 7]`. -/
def printedT16High : List (List Nat) :=
  [[0x8408, 0x9581, 0xA71A, 0xB693, 0xC22C, 0xD3A5, 0xE13E, 0xF0B7],
   [0x0840, 0x19C9, 0x2B52, 0x3ADB, 0x4E64, 0x5FED, 0x6D76, 0x7CFF],
   [0x9489, 0x8500, 0xB79B, 0xA612, 0xD2AD, 0xC324, 0xF1BF, 0xE036],
   [0x18C1, 0x0948, 0x3BD3, 0x2A5A, 0x5EE5, 0x4F6C, 0x7DF7, 0x6C7E],
   [0xA50A, 0xB483, 0x8618, 0x9791, 0xE32E, 0xF2A7, 0xC03C, 0xD1B5],
   [0x2942, 0x38CB, 0x0A50, 0x1BD9, 0x6F66, 0x7EEF, 0x4C74, 0x5DFD],
   [0xB58B, 0xA402, 0x9699, 0x8710, 0xF3AF, 0xE226, 0xD0BD, 0xC134],
   [0x39C3, 0x284A, 0x1AD1, 0x0B58, 0x7FE7, 0x6E6E, 0x5CF5, 0x4D7C],
   [0xC60C, 0xD785, 0xE51E, 0xF497, 0x8028, 0x91A1, 0xA33A, 0xB2B3],
   [0x4A44, 0x5BCD, 0x6956, 0x78DF, 0x0C60, 0x1DE9, 0x2F72, 0x3EFB],
   [0xD68D, 0xC704, 0xF59F, 0xE416, 0x90A9, 0x8120, 0xB3BB, 0xA232],
   [0x5AC5, 0x4B4C, 0x79D7, 0x685E, 0x1CE1, 0x0D68, 0x3FF3, 0x2E7A],
   [0xE70E, 0xF687, 0xC41C, 0xD595, 0xA12A, 0xB0A3, 0x8238, 0x93B1],
   [0x6B46, 0x7ACF, 0x4854, 0x59DD, 0x2D62, 0x3CEB, 0x0E70, 0x1FF9],
   [0xF78F, 0xE606, 0xD49D, 0xC514, 0xB1AB, 0xA022, 0x92B9, 0x8330],
   [0x7BC7, 0x6A4E, 0x58D5, 0x495C, 0x3DE3, 0x2C6A, 0x1EF1, 0x0F78]]

/-- `s` with one more response delivered: to the command with code `op`, with this status, data and info. -/
abbrev told (s : State) (op : Byte) (st : Status) (d : Data) (i : Info) : State :=
  { s with replies := s.replies ++ [⟨op, ⟨st, d, i⟩⟩] }

/-- The bytes an answer delivers. -/
def delivered : Answer → List Byte
  | .terr => []
  | .bytes b => b

/-- The index of `R_BUF` at which a reader step stores the bytes it keeps: 0 in SCAN, `R_COUNT` in the later phases
(42_reader R117, R118, R120, R122). -/
def storeBase (s : State) : Nat :=
  match s.rState with
  | .scan => 0
  | _ => s.rCount

/-- What PARSE reports of a valid frame with bit `j` of the byte at index `i` flipped (the table of 41_codec R110). -/
def flipStatus (i j : Nat) : Status :=
  if i = 0 then .badMagic
  else if i = 1 then .lengthMismatch
  else if i = 2 ∧ j < 2 then .lengthMismatch
  else if i = 2 then .headerChecksum
  else if i = 3 then .headerChecksum
  else .frameChecksum

end Sys2Proof.Safety
end

