-- ==== Sys2Proof/Certificates/Slice0/Obligations.lean ====
section
/-! DEFINITION. The statements for the provers. Each docstring names the rule of the spec it formalises; one that rests on a
log entry names the entry. Rules that the spec marks as derived are its own inferences from other rules: in OBLIGATIONS.json
the statements of those have the basis 'derived'.
-/

open Sys2Proof Sys2Proof.Machine Sys2Proof.Safety

/-! ### Encoding (30_encoding) -/

/-- 30_encoding R72: the four codes, their operands and the commands they stand for. -/
def Obligations.TableCodesDecodeToTheirCommands : Prop :=
  (∀ (seq : Half) (src dst ctype cset cid : Byte) (payload : List Byte),
    decode ⟨0x01, [.halfVal seq, .byteVal src, .byteVal dst, .byteVal ctype, .byteVal cset, .byteVal cid,
      .bytesVal payload]⟩ = .ok (.build seq src dst ctype cset cid payload)) ∧
  (∀ bytes : List Byte, decode ⟨0x02, [.bytesVal bytes]⟩ = .ok (.parse bytes)) ∧
  decode ⟨0x03, []⟩ = .ok .nextFrame ∧
  decode ⟨0x04, []⟩ = .ok .abort

/-- 30_encoding R72, R73, R79: every command is read back from its binary form with every operand, a record that decodes is
that command's binary form, and exactly the well-formed records decode. -/
def Obligations.DecodingInvertsEncoding : Prop :=
  (∀ i : Instr, decode (encode i) = .ok i) ∧
  (∀ (c : Command) (i : Instr), decode c = .ok i → c = encode i) ∧
  (∀ c : Command, c.wf = true ↔ ∃ i, decode c = .ok i)

/-- 30_encoding R74: a reserved code, with whatever operands, changes no state and completes with ILLEGAL_COMMAND. -/
def Obligations.ReservedCodesAnswerIllegalCommand : Prop :=
  ∀ (s : State) (op : Byte) (operands : List Operand) (es : List Event),
    s.cfg.legal = true → s.schedule = .command ⟨op, operands⟩ :: es →
    op ≠ 0x01 → op ≠ 0x02 → op ≠ 0x03 → op ≠ 0x04 →
    step s = .next (told { s with schedule := es } op .illegalCommand .empty .nothing) ∧
    Status.code .illegalCommand = 0xF0

/-- 30_encoding R66: the length decode in numbers, its range, and the bits that never affect it. -/
def Obligations.LengthDecodeIgnoresVersionBits : Prop :=
  ∀ b1 b2 : Byte,
    (decodeLen b1 b2).toNat = b1.toNat + 256 * (b2 &&& 0x03).toNat ∧
    (decodeLen b1 b2).toNat ≤ 1023 ∧
    ∀ b2' : Byte, b2' &&& 0x03 = b2 &&& 0x03 → decodeLen b1 b2' = decodeLen b1 b2

/-! ### The step (10_state, 42_reader R116, R126, 70_reset_and_hazards) -/

/-- A step runs the decoded command: exec of it, in the state whose schedule no longer holds it. That the client's next
command (10_state R29) is the head of the list `schedule` is the model's choice (log entry 7, DESIGN CHOICE). -/
def Obligations.StepRunsTheScheduledCommand : Prop :=
  ∀ (s : State) (c : Command) (es : List Event) (i : Instr),
    s.cfg.legal = true → s.schedule = .command c :: es → decode c = .ok i →
    step s = exec i { s with schedule := es }

/-- The reader's turns: with nothing scheduled a busy reader steps and an idle block waits (70 R156); a scheduled turn is a
reader step of a busy reader, and an idle reader has none (42_reader R116). The schedule itself is the model's form of
the interleavings R126 and 60 R148 admit (log entry 7). -/
def Obligations.ReaderStepsOnlyWhileBusy : Prop :=
  ∀ s : State, s.cfg.legal = true →
    (s.schedule = [] → s.rState = .idle → step s = .next s) ∧
    (s.schedule = [] → s.rState ≠ .idle → step s = readerStep s) ∧
    (∀ es, s.schedule = .readerTurn :: es → s.rState = .idle → step s = .next { s with schedule := es }) ∧
    (∀ es, s.schedule = .readerTurn :: es → s.rState ≠ .idle → step s = readerStep { s with schedule := es })

/-- 10_state R27 and 70 R164: the legal configurations; no run of another; a reset to another and a change outside
reset are refused. That these are events and that a refusal stops the machine is the model's choice (log entry 1). -/
def Obligations.IllegalConfigurationsAreRefused : Prop :=
  (∀ c : Config, c.legal = true ↔
    (c.hdrSeed ≠ 0 ∧ (∀ b, c.scanBound = some b → 1 ≤ b) ∧ 1 ≤ c.retryBudget)) ∧
  (∀ s : State, s.cfg.legal = false → step s = .refused .illegalConfiguration) ∧
  (∀ (s : State) (c : Config) (es : List Event), s.cfg.legal = true → s.schedule = .reset c :: es →
    c.legal = false → step s = .refused .illegalConfiguration) ∧
  (∀ (s : State) (c : Config) (es : List Event), s.cfg.legal = true → s.schedule = .configure c :: es →
    c ≠ s.cfg → step s = .refused .configurationChange)

/-- 70 R156: what a reset leaves, in the middle of a call or not, with no response; the block then waits; and the
configuration holds until the next reset: no command and no reader step writes it. -/
def Obligations.ResetClearsTheReaderAndFixesTheConfiguration : Prop :=
  (∀ (s : State) (c : Config) (es : List Event),
    s.cfg.legal = true → c.legal = true → s.schedule = .reset c :: es →
    ∃ t : State, step s = .next t ∧
      t.rState = .idle ∧ t.rCount = 0 ∧ t.rLen = 0 ∧ t.rDisc = 0 ∧ t.rRetry = 0 ∧
      (∀ i, Memory.read t.rBuf i = none) ∧
      t.cfg = c ∧ t.transport = s.transport ∧ t.replies = s.replies ∧ t.schedule = es ∧
      (es = [] → step t = .next t)) ∧
  (∀ s t : State, step s = .next t →
    t.cfg = s.cfg ∨ ∃ c es, s.schedule = .reset c :: es ∧ t.cfg = c ∧ c.legal = true)

/-- 10_state R35: the registers of the reset state. -/
def Obligations.ResetStateHasTheResetValues : Prop :=
  State.reset.rState = .idle ∧ State.reset.rCount = 0 ∧ State.reset.rLen = 0 ∧ State.reset.rDisc = 0 ∧
  State.reset.rRetry = 0 ∧ ∀ i, Memory.read State.reset.rBuf i = none

/-- 60_exceptions R144: every command is open in every state, and its meaning answers a next state. -/
def Obligations.EveryCommandIsOpenInEveryState : Prop :=
  ∀ (i : Instr) (s : State), ∃ t, exec i s = .next t

/-- What a command leaves unchanged: BUILD and PARSE everything but the responses (20_memory R57, 60 R139), ABORT everything
but the responses and `R_STATE` (42_reader R125), NEXT_FRAME everything but the responses, `R_STATE`, `R_COUNT`,
`R_DISC` and `R_RETRY` (R113). No command stores into `R_BUF` (20_memory R45). Responses already delivered stay. -/
def Obligations.CommandsLeaveTheRestUnchanged : Prop :=
  ∀ (i : Instr) (s t : State), exec i s = .next t →
    t.cfg = s.cfg ∧ t.transport = s.transport ∧ t.schedule = s.schedule ∧ t.rLen = s.rLen ∧
    (∀ a, Memory.read t.rBuf a = Memory.read s.rBuf a) ∧
    (i ≠ .nextFrame → t.rCount = s.rCount ∧ t.rDisc = s.rDisc ∧ t.rRetry = s.rRetry) ∧
    (i ≠ .nextFrame → i ≠ .abort → t.rState = s.rState) ∧
    ∃ l, t.replies = s.replies ++ l

/-! ### BUILD and PARSE (41_codec) -/

/-- 41_codec R97: BUILD completes in every state. With at most 1010 payload bytes it answers the frame, field by field;
else TOO_LONG with the computed length. With the `DUML_DEFAULT` parameters the worked example gives its 13 bytes. -/
def Obligations.BuildSerialisesItsOperands : Prop :=
  (∀ (s : State) (seq : Half) (src dst ctype cset cid : Byte) (payload : List Byte),
    payload.length ≤ 1010 → ∃ f : List Byte,
      exec (.build seq src dst ctype cset cid payload) s = .next (told s 0x01 .ok (.bytes f) .nothing) ∧
      f.length = 13 + payload.length ∧
      byteAt f 0 = s.cfg.magic ∧
      rd16 f 1 = BitVec.ofNat 16 (13 + payload.length) ||| (s.cfg.version.setWidth 16 <<< 10) ∧
      byteAt f 3 = hdrck s.cfg (slice f 0 2) ∧
      byteAt f 4 = src ∧ byteAt f 5 = dst ∧ rd16 f 6 = seq ∧
      byteAt f 8 = ctype ∧ byteAt f 9 = cset ∧ byteAt f 10 = cid ∧
      slice f 11 (f.length - 3) = payload ∧
      rd16 f (f.length - 2) = frmck s.cfg (slice f 0 (f.length - 3))) ∧
  (∀ (s : State) (seq : Half) (src dst ctype cset cid : Byte) (payload : List Byte),
    1010 < payload.length →
      exec (.build seq src dst ctype cset cid payload) s =
        .next (told s 0x01 .tooLong .empty (.computedLength (13 + payload.length)))) ∧
  (∀ (s : State) (sb : Option Nat) (rb : Nat), s.cfg = Config.dumlDefault sb rb →
    exec (.build 0x34eb 0x0a 0x06 0x40 0x06 0x01 []) s =
      .next (told s 0x01 .ok (.bytes [0x55, 0x0d, 0x04, 0x33, 0x0a, 0x06, 0xeb, 0x34, 0x40, 0x06, 0x01, 0x74, 0x24])
        .nothing))

/-- 41_codec R98 and 30_encoding R76: every frame BUILD answers is Valid, so its length is never truncated, and it carries
`P_VERSION`. -/
def Obligations.BuiltFramesAreValid : Prop :=
  ∀ (s t : State) (seq : Half) (src dst ctype cset cid : Byte) (payload f : List Byte),
    exec (.build seq src dst ctype cset cid payload) s = .next t →
    t = told s 0x01 .ok (.bytes f) .nothing →
    Valid s.cfg f ∧ versionBits (byteAt f 2) = s.cfg.version ∧ payload.length ≤ 1010

/-- 41_codec R103: PARSE completes in every state, with the first check that fails or the record of the frame. With the
`DUML_DEFAULT` parameters the worked example gives its record. -/
def Obligations.ParseReportsFirstFailureOrTheFields : Prop :=
  (∀ (st : State) (sb : Option Nat) (rb : Nat), st.cfg = Config.dumlDefault sb rb →
    exec (.parse [0x55, 0x0d, 0x04, 0x33, 0x0a, 0x06, 0xeb, 0x34, 0x40, 0x06, 0x01, 0x74, 0x24]) st =
      .next (told st 0x02 .ok (.frame
        { length := 13, version := 1, headerChecksum := 0x33, sourceAddress := 0x0a, targetAddress := 0x06,
          sequenceNumber := 0x34eb, commandType := 0x40, commandSet := 0x06, commandId := 0x01, payload := [],
          payloadOffset := 11, frameChecksum := 0x2474 }) .nothing)) ∧
  ∀ (st : State) (s : List Byte) (len : Nat), len = (decodeLen (byteAt s 1) (byteAt s 2)).toNat →
    (s.length < 13 →
      exec (.parse s) st = .next (told st 0x02 .tooShort .empty (.inputLength s.length))) ∧
    (13 ≤ s.length → byteAt s 0 ≠ st.cfg.magic →
      exec (.parse s) st = .next (told st 0x02 .badMagic .empty (.byteFound (byteAt s 0)))) ∧
    (13 ≤ s.length → byteAt s 0 = st.cfg.magic → len ≠ s.length →
      exec (.parse s) st = .next (told st 0x02 .lengthMismatch .empty (.lengths len s.length))) ∧
    (13 ≤ s.length → byteAt s 0 = st.cfg.magic → len = s.length → byteAt s 3 ≠ hdrck st.cfg (slice s 0 2) →
      exec (.parse s) st = .next (told st 0x02 .headerChecksum .empty (.storedHeader (byteAt s 3)))) ∧
    (13 ≤ s.length → byteAt s 0 = st.cfg.magic → len = s.length → byteAt s 3 = hdrck st.cfg (slice s 0 2) →
      rd16 s (len - 2) ≠ frmck st.cfg (slice s 0 (len - 3)) →
      exec (.parse s) st = .next (told st 0x02 .frameChecksum .empty (.storedFrame (rd16 s (len - 2))))) ∧
    (13 ≤ s.length → byteAt s 0 = st.cfg.magic → len = s.length → byteAt s 3 = hdrck st.cfg (slice s 0 2) →
      rd16 s (len - 2) = frmck st.cfg (slice s 0 (len - 3)) →
      exec (.parse s) st = .next (told st 0x02 .ok (.frame
        { length := decodeLen (byteAt s 1) (byteAt s 2), version := (byteAt s 2).extractLsb' 2 6,
          headerChecksum := byteAt s 3, sourceAddress := byteAt s 4, targetAddress := byteAt s 5,
          sequenceNumber := rd16 s 6, commandType := byteAt s 8, commandSet := byteAt s 9,
          commandId := byteAt s 10, payload := slice s 11 (len - 3), payloadOffset := 11,
          frameChecksum := rd16 s (len - 2) }) .nothing))

/-- 41_codec R107: PARSE responds OK exactly on the frames of the predicate Valid; on any other input it answers no
field (R109). -/
def Obligations.ParseAcceptsExactlyValidFrames : Prop :=
  ∀ (st : State) (s : List Byte),
    (Valid st.cfg s → ∃ f, exec (.parse s) st = .next (told st 0x02 .ok (.frame f) .nothing)) ∧
    (¬ Valid st.cfg s → ∃ e i, e ≠ .ok ∧ exec (.parse s) st = .next (told st 0x02 e .empty i))

/-- 41_codec R108, first half: PARSE of a built frame returns the operands BUILD was given. -/
def Obligations.ParseOfBuildReturnsTheOperands : Prop :=
  ∀ (st st' : State) (seq : Half) (src dst ctype cset cid : Byte) (payload : List Byte),
    payload.length ≤ 1010 → st'.cfg = st.cfg → ∃ f g,
      exec (.build seq src dst ctype cset cid payload) st = .next (told st 0x01 .ok (.bytes f) .nothing) ∧
      exec (.parse f) st' = .next (told st' 0x02 .ok (.frame g) .nothing) ∧
      g.length.toNat = 13 + payload.length ∧ g.version = st.cfg.version ∧
      g.sequenceNumber = seq ∧ g.sourceAddress = src ∧ g.targetAddress = dst ∧
      g.commandType = ctype ∧ g.commandSet = cset ∧ g.commandId = cid ∧ g.payload = payload ∧ g.payloadOffset = 11

/-- 41_codec R108, second half: BUILD of the fields PARSE returns gives back the frame, where its version bits are
`P_VERSION`. -/
def Obligations.BuildOfParsedFieldsReturnsTheFrame : Prop :=
  ∀ (st st' : State) (s : List Byte), Valid st.cfg s → versionBits (byteAt s 2) = st.cfg.version → st'.cfg = st.cfg →
    ∃ g, exec (.parse s) st = .next (told st 0x02 .ok (.frame g) .nothing) ∧
      exec (.build g.sequenceNumber g.sourceAddress g.targetAddress g.commandType g.commandSet g.commandId g.payload) st' =
        .next (told st' 0x01 .ok (.bytes s) .nothing)

/-- 41_codec R110: any single flipped bit of a valid frame is reported, by the place of the bit, in every configuration with the
properties of 40_checksums R94 and R95. -/
def Obligations.SingleBitFlipsAreReported : Prop :=
  ∀ (st : State) (f : List Byte) (i j : Nat),
    HdrSensitive st.cfg → FrmSensitive st.cfg → Valid st.cfg f → i < f.length → j < 8 →
    ∃ info, exec (.parse (flipBit f i j)) st = .next (told st 0x02 (flipStatus i j) .empty info)

/-- 41_codec R111: a truncated valid frame fails, by the length left; a valid frame with bytes appended fails with
LengthMismatch. -/
def Obligations.TruncationAndExtensionAreReported : Prop :=
  (∀ (st : State) (f : List Byte) (k : Nat), Valid st.cfg f → 1 ≤ k → k ≤ f.length →
    ∃ info, exec (.parse (f.take (f.length - k))) st =
      .next (told st 0x02 (if f.length - k < 13 then .tooShort else .lengthMismatch) .empty info)) ∧
  (∀ (st : State) (f x : List Byte), Valid st.cfg f → x ≠ [] →
    ∃ info, exec (.parse (f ++ x)) st = .next (told st 0x02 .lengthMismatch .empty info))

/-- 41_codec R105: an input longer than 1023 bytes fails LengthMismatch, or the magic check before it. -/
def Obligations.OverlongInputsAreRejected : Prop :=
  ∀ (st : State) (s : List Byte), 1023 < s.length →
    ∃ info, exec (.parse s) st =
      .next (told st 0x02 (if byteAt s 0 = st.cfg.magic then .lengthMismatch else .badMagic) .empty info)

/-- 10_state R20, R21: a codec command's response is a function of its operands and the configuration; the reader unit, the
transport and the client's other commands have no part in it. -/
def Obligations.CodecResponsesIgnoreTheReader : Prop :=
  ∀ (i : Instr) (s s' : State), s.cfg = s'.cfg → i ≠ .nextFrame → i ≠ .abort →
    ∃ r : Reply, exec i s = .next { s with replies := s.replies ++ [r] } ∧
      exec i s' = .next { s' with replies := s'.replies ++ [r] }

/-! ### Checksums (40_checksums) -/

/-- 40_checksums R88: the entries of `T8`. -/
def Obligations.HeaderTableHasThePrintedEntries : Prop :=
  ∀ r < 16, (List.range 16).map (fun k => (t8 (BitVec.ofNat 8 (16 * r + k))).toNat) = printedT8.getD r []

/-- 40_checksums R91: the entries of `T16`. -/
def Obligations.FrameTableHasThePrintedEntries : Prop :=
  ∀ r < 32, (List.range 8).map (fun k => (t16 (BitVec.ofNat 8 (8 * r + k))).toNat) =
    (printedT16Low ++ printedT16High).getD r []

/-- 40_checksums R93: the check values ("123456789" in ASCII is 31 32 .. 39). -/
def Obligations.ChecksumCheckValues : Prop :=
  dumlHdrck 0x77 [] = 0x77 ∧ dumlHdrck 0x77 [0x55, 0x0d, 0x04] = 0x33 ∧
  dumlHdrck 0x00 [0x31, 0x32, 0x33, 0x34, 0x35, 0x36, 0x37, 0x38, 0x39] = 0xA1 ∧
  dumlFrmck 0x3692 [] = 0x3692 ∧
  dumlFrmck 0x0000 [0x31, 0x32, 0x33, 0x34, 0x35, 0x36, 0x37, 0x38, 0x39] = 0x2189 ∧
  dumlFrmck 0x3692 [0x31, 0x32, 0x33, 0x34, 0x35, 0x36, 0x37, 0x38, 0x39] = 0x7109

/-- 40_checksums R92: the table forms equal the bit-serial forms. -/
def Obligations.TableFormsEqualBitSerialForms : Prop :=
  (∀ (seed : Byte) (s : List Byte), dumlHdrck seed s = serialHdrck seed s) ∧
  (∀ (init : Half) (s : List Byte), dumlFrmck init s = serialFrmck init s)

/-- 40_checksums R94: `DUML_DEFAULT` detects one flipped bit in three bytes. -/
def Obligations.DefaultHeaderChecksumIsSensitive : Prop :=
  ∀ (sb : Option Nat) (rb : Nat), HdrSensitive (Config.dumlDefault sb rb)

/-- 40_checksums R95: `DUML_DEFAULT` detects one flipped bit in at most 1021 bytes. -/
def Obligations.DefaultFrameChecksumIsSensitive : Prop :=
  ∀ (sb : Option Nat) (rb : Nat), FrmSensitive (Config.dumlDefault sb rb)

/-! ### The reader (42_reader) -/

/-- 42_reader R113 and 10_state R26: NEXT_FRAME completes in every state: it starts a call of an idle reader and does nothing
to a busy one. -/
def Obligations.NextFrameStartsACallOrAnswersBusy : Prop :=
  ∀ s : State,
    (s.rState = .idle →
      exec .nextFrame s = .next { s with rState := .scan, rCount := 0, rDisc := 0, rRetry := 0 }) ∧
    (s.rState ≠ .idle → exec .nextFrame s = .next (told s 0x03 .busy .empty .nothing))

/-- 42_reader R125: ABORT completes in every state: it ends the call in progress, and has no effect on an idle reader. -/
def Obligations.AbortEndsTheCallInProgress : Prop :=
  ∀ s : State,
    (s.rState = .idle → exec .abort s = .next (told s 0x04 .ok .empty .nothing)) ∧
    (s.rState ≠ .idle →
      exec .abort s =
        .next (told (told { s with rState := .idle } 0x03 .aborted .empty .nothing) 0x04 .ok .empty .nothing))

/-- 42_reader R117: a SCAN step that is answered with a byte. -/
def Obligations.ScanStepFindsMagicOrDiscards : Prop :=
  ∀ (s : State) (b : Byte) (tr : Transport), s.rState = .scan → Transport.read s.transport 1 = (.bytes [b], tr) →
    (b = s.cfg.magic →
      readerStep s = .next { s with transport := tr, rRetry := 0, rBuf := Memory.write s.rBuf 0 b, rCount := 1,
                                    rState := .hdr }) ∧
    (b ≠ s.cfg.magic → s.cfg.scanBound ≠ some (s.rDisc + 1) →
      readerStep s = .next { s with transport := tr, rRetry := 0, rDisc := s.rDisc + 1 }) ∧
    (b ≠ s.cfg.magic → s.cfg.scanBound = some (s.rDisc + 1) →
      readerStep s = .next (told { s with transport := tr, rRetry := 0, rDisc := s.rDisc + 1, rState := .idle } 0x03
        .noMagic .empty (.discarded (s.rDisc + 1))))

/-- 42_reader R118 and R119: the HDR step that completes the link header, and the length decode in it. -/
def Obligations.HeaderStepDecodesTheLength : Prop :=
  ∀ (s : State) (b : List Byte) (tr : Transport) (m : Memory),
    s.rState = .hdr → 1 ≤ s.rCount → s.rCount ≤ 3 → (∀ i < s.rCount, (Memory.read s.rBuf i).isSome = true) →
    b.length = 4 - s.rCount → Transport.read s.transport (4 - s.rCount) = (.bytes b, tr) →
    m = Memory.writeBytes s.rBuf s.rCount b →
    ∃ b1 b2, Memory.read m 1 = some b1 ∧ Memory.read m 2 = some b2 ∧
      ((decodeLen b1 b2).toNat < 4 →
        readerStep s = .next (told { s with transport := tr, rBuf := m, rCount := 4, rRetry := 0, rState := .idle } 0x03
          .badLength .empty (.decodedLength (decodeLen b1 b2).toNat))) ∧
      ((decodeLen b1 b2).toNat = 4 → ∃ cand : List Byte, cand.length = 4 ∧ (∀ k < 4, Memory.read m k = cand[k]?) ∧
        readerStep s = .next (told { s with transport := tr, rBuf := m, rCount := 4, rRetry := 0, rState := .idle,
                                            rLen := decodeLen b1 b2 } 0x03 .ok (.bytes cand) .nothing)) ∧
      (4 < (decodeLen b1 b2).toNat →
        readerStep s = .next { s with transport := tr, rBuf := m, rCount := 4, rRetry := 0, rState := .body,
                                      rLen := decodeLen b1 b2 })

/-- 42_reader R120: the BODY step that completes the candidate. R120 does not name `R_RETRY`, and the statement leaves its
value open (log entry 9). -/
def Obligations.BodyStepDeliversTheCandidate : Prop :=
  ∀ (s : State) (b : List Byte) (tr : Transport) (m : Memory),
    s.rState = .body → s.rCount < s.rLen.toNat → (∀ i < s.rCount, (Memory.read s.rBuf i).isSome = true) →
    b.length = s.rLen.toNat - s.rCount → Transport.read s.transport (s.rLen.toNat - s.rCount) = (.bytes b, tr) →
    m = Memory.writeBytes s.rBuf s.rCount b →
    ∃ (cand : List Byte) (retry : Nat),
      cand.length = s.rLen.toNat ∧ (∀ k < s.rLen.toNat, Memory.read m k = cand[k]?) ∧
      readerStep s = .next (told { s with transport := tr, rBuf := m, rCount := s.rLen.toNat, rRetry := retry,
                                          rState := .idle } 0x03 .ok (.bytes cand) .nothing)

/-- 42_reader R121: an empty answer, in any busy state, and the count's restart by any delivered byte. The info of the
ShortRead is the model's reading of 60 R137 (log entry 10), and so is the 0 after a full BODY answer and a failing short one
(log entry 9). -/
def Obligations.EmptyAnswersSpendTheRetryBudget : Prop :=
  (∀ (s : State) (tr : Transport), need s ≠ 0 → Transport.read s.transport (need s) = (.bytes [], tr) →
    (s.rRetry + 1 ≠ s.cfg.retryBudget →
      readerStep s = .next { s with transport := tr, rRetry := s.rRetry + 1 }) ∧
    (s.rRetry + 1 = s.cfg.retryBudget → s.rCount ≤ phaseStart s.rState →
      readerStep s = .next (told { s with transport := tr, rRetry := s.rRetry + 1, rState := .idle } 0x03 .timeout .empty
        (.retries (s.rRetry + 1)))) ∧
    (s.rRetry + 1 = s.cfg.retryBudget → phaseStart s.rState < s.rCount →
      readerStep s = .next (told { s with transport := tr, rRetry := s.rRetry + 1, rState := .idle } 0x03 .shortRead .empty
        (.held (s.rCount - phaseStart s.rState))))) ∧
  (∀ (s t : State) (b : Byte) (bs : List Byte) (tr : Transport),
    Transport.read s.transport (need s) = (.bytes (b :: bs), tr) → readerStep s = .next t → t.rRetry = 0)

/-- 42_reader R122: a short answer fails the call and is dropped, or, accumulating, is kept and the rest requested next. Of
`R_RETRY` after a failing one R122 says nothing, and the statement leaves its value open (log entry 9). -/
def Obligations.ShortAnswersFailOrAccumulate : Prop :=
  ∀ (s : State) (b : List Byte) (tr : Transport),
    s.rState = .hdr ∨ s.rState = .body →
    1 ≤ b.length → b.length < need s → Transport.read s.transport (need s) = (.bytes b, tr) →
    (s.cfg.accumulate = false → ∃ retry : Nat,
      readerStep s = .next (told { s with transport := tr, rRetry := retry, rState := .idle } 0x03 .shortRead .empty
        (.delivered b.length (need s)))) ∧
    (s.cfg.accumulate = true → ∃ t,
      readerStep s = .next t ∧
      t = { s with transport := tr, rRetry := 0, rBuf := Memory.writeBytes s.rBuf s.rCount b,
                   rCount := s.rCount + b.length } ∧
      need t = need s - b.length)

/-- 42_reader R115: every step of a busy reader requests at least one byte, and `TErr` ends the call; the bytes consumed before
stay consumed. -/
def Obligations.TransportErrorsEndTheCall : Prop :=
  (∀ s : State, ReaderInv s → Busy s → 1 ≤ need s) ∧
  (∀ (s : State) (tr : Transport), 1 ≤ need s → Transport.read s.transport (need s) = (.terr, tr) →
    readerStep s = .next (told { s with transport := tr, rState := .idle } 0x03 .transportError .empty .nothing) ∧
    tr.pos = s.transport.pos)

/-- What a reader step leaves unchanged, with the index it stores at computed by the step's own rules: every byte of `R_BUF`
outside the bytes delivered into it, the configuration, the schedule, `R_LEN` outside HDR, `R_DISC` outside SCAN, and the
responses already delivered (42_reader R115 to R122, 10_state R35). -/
def Obligations.ReaderStepLeavesTheRestUnchanged : Prop :=
  ∀ (s t : State) (a : Answer) (tr : Transport),
    Transport.read s.transport (need s) = (a, tr) → readerStep s = .next t →
    t.cfg = s.cfg ∧ t.schedule = s.schedule ∧ t.transport = tr ∧
    (∀ i, ¬ (storeBase s ≤ i ∧ i < storeBase s + (delivered a).length) →
      Memory.read t.rBuf i = Memory.read s.rBuf i) ∧
    (delivered a = [] → t.rCount = s.rCount ∧ t.rLen = s.rLen ∧ t.rDisc = s.rDisc) ∧
    (s.rState ≠ .hdr → t.rLen = s.rLen) ∧
    (s.rState ≠ .scan → t.rDisc = s.rDisc) ∧
    ∃ l, t.replies = s.replies ++ l ∧ l.length ≤ 1

/-- 20_memory R50 and R51: a request delivers at most the bytes asked for, the next ones of the stream, in order, each once;
`TErr` consumes nothing. (The script is the model's form of the
stream: log entry 6; what the transport answers beyond it is free: log entry 5.) -/
def Obligations.TransportDeliversTheStreamOnce : Prop :=
  ∀ (t t' : Transport) (n : Nat) (a : Answer), Transport.read t n = (a, t') →
    (delivered a).length ≤ n ∧ t'.pos = t.pos + (delivered a).length ∧
    (t.script ≠ [] → delivered a ++ scripted t'.script = scripted t.script) ∧ t'.tail = t.tail

/-- 42_reader R114: the candidate of an OK response is what `R_BUF` holds, starts with the magic byte, and has the decoded
length. -/
def Obligations.CandidatesHaveTheDecodedLength : Prop :=
  ∀ (s t : State) (cand : List Byte) (i : Info), ReaderInv s → readerStep s = .next t →
    t.replies = s.replies ++ [⟨0x03, ⟨.ok, .bytes cand, i⟩⟩] →
    byteAt cand 0 = s.cfg.magic ∧ cand.length = (decodeLen (byteAt cand 1) (byteAt cand 2)).toNat ∧ 4 ≤ cand.length ∧
    t.rCount = cand.length ∧ t.rLen.toNat = cand.length ∧ t.rState = .idle ∧ ∀ k < cand.length, Memory.read t.rBuf k = cand[k]?

/-- 42_reader R131, R132 with RECV (30_encoding R81): a candidate below 13 bytes is TOO_SHORT; a longer one is OK exactly when
it is Valid and fails only by a checksum. -/
def Obligations.ReceivedFramesAreValidOrFailAChecksum : Prop :=
  ∀ (s t : State) (c : List Byte) (i : Info), ReaderInv s → readerStep s = .next t →
    t.replies = s.replies ++ [⟨0x03, ⟨.ok, .bytes c, i⟩⟩] →
    (c.length < 13 → (recvResponse s.cfg ⟨.ok, .bytes c, i⟩).status = .tooShort) ∧
    (13 ≤ c.length →
      (recvResponse s.cfg ⟨.ok, .bytes c, i⟩).status = .ok ∨
      (recvResponse s.cfg ⟨.ok, .bytes c, i⟩).status = .headerChecksum ∨
      (recvResponse s.cfg ⟨.ok, .bytes c, i⟩).status = .frameChecksum) ∧
    ((recvResponse s.cfg ⟨.ok, .bytes c, i⟩).status = .ok ↔ Valid s.cfg c)

/-- 42_reader R128: the bytes a step consumes are the ones it discards, the ones it places, and, in a strict ShortRead, the
ones it drops. -/
def Obligations.ConsumedBytesAreAccountedFor : Prop :=
  ∀ s t : State, ReaderInv s → readerStep s = .next t →
    (∀ n r, t.replies = s.replies ++ [⟨0x03, ⟨.shortRead, .empty, .delivered n r⟩⟩] →
      t.transport.pos = s.transport.pos + n ∧ t.rDisc = s.rDisc ∧ t.rCount = s.rCount) ∧
    ((¬ ∃ n r, t.replies = s.replies ++ [⟨0x03, ⟨.shortRead, .empty, .delivered n r⟩⟩]) →
      t.transport.pos + (s.rDisc + s.rCount) = s.transport.pos + (t.rDisc + t.rCount))

/-- 42_reader R126: an ABORT and a reader step that are both possible happen in either order. With ABORT first the step
consumes nothing; a step already taken is not undone. (The order is the schedule's: log entry 7.) -/
def Obligations.AbortAndStepInEitherOrder : Prop :=
  ∀ s : State, s.cfg.legal = true → s.rState ≠ .idle →
    (s.schedule = [.command ⟨0x04, []⟩, .readerTurn] →
      Host.Core.run Sys2Proof.core 2 s =
        .next (told (told { s with rState := .idle, schedule := [] } 0x03 .aborted .empty .nothing) 0x04 .ok .empty
          .nothing)) ∧
    (∀ u : State, s.schedule = [.readerTurn, .command ⟨0x04, []⟩] →
      readerStep { s with schedule := [.command ⟨0x04, []⟩] } = .next u →
      Host.Core.run Sys2Proof.core 2 s = exec .abort { u with schedule := [] })

/-- 42_reader R129: with a finite scan bound a call ends within `(P_SCAN_BOUND + 1023) * P_RETRY_BUDGET` steps and consumes
at most `P_SCAN_BOUND - 1 + 1023` bytes, whatever the transport does. -/
def Obligations.CallsEndUnderAFiniteScanBound : Prop :=
  ∀ (s : State) (bound : Nat), ReaderInv s → Busy s → s.schedule = [] → s.cfg.scanBound = some bound →
    ∃ (k : Nat) (t : State), k ≤ (bound + 1023) * s.cfg.retryBudget ∧
      Host.Core.run Sys2Proof.core k s = .next t ∧ t.rState = .idle ∧
      t.transport.pos ≤ s.transport.pos + (bound - 1 + 1023)

/-- 42_reader R129: with `P_SCAN_BOUND = INF` an endless run of a non-magic byte keeps the call in SCAN for ever. -/
def Obligations.EndlessNoiseKeepsTheCallScanning : Prop :=
  ∀ (s : State) (b : Byte) (k : Nat),
    s.cfg.legal = true → s.cfg.scanBound = none → s.schedule = [] → s.rState = .scan →
    s.transport.script = [] → s.transport.tail = .endless b → b ≠ s.cfg.magic →
    ∃ t : State, Host.Core.run Sys2Proof.core k s = .next t ∧ t.rState = .scan ∧ t.rDisc = s.rDisc + k ∧
      t.replies = s.replies ∧ t.transport.pos = s.transport.pos + k

/-- 60_exceptions R150: with no byte ever delivered, a call ends in TIMEOUT after `P_RETRY_BUDGET` empty answers, and nothing is
consumed. -/
def Obligations.SilentTransportsEndInTimeout : Prop :=
  ∀ s : State, s.cfg.legal = true → s.rState = .idle → s.schedule = [.command ⟨0x03, []⟩] →
    s.transport.script = [] → s.transport.tail = .silent →
    ∃ t : State, Host.Core.run Sys2Proof.core (1 + s.cfg.retryBudget) s = .next t ∧ t.rState = .idle ∧
      t.replies = s.replies ++ [⟨0x03, ⟨.timeout, .empty, .retries s.cfg.retryBudget⟩⟩] ∧
      t.transport.pos = s.transport.pos

/-- 42_reader R130: garbage without a magic byte, shorter than the scan bound, then a valid frame, from a transport that
delivers every request in full: the first call returns exactly that frame, with the garbage discarded. -/
def Obligations.CleanGarbageThenFrameYieldsTheFrame : Prop :=
  ∀ (s : State) (g f r : List Byte) (more : List Answer),
    s.cfg.legal = true → s.rState = .idle → s.schedule = [.command ⟨0x03, []⟩] →
    s.transport.script = .bytes (g ++ f ++ r) :: more → (∀ b ∈ g, b ≠ s.cfg.magic) →
    (∀ bound, s.cfg.scanBound = some bound → g.length < bound) → Valid s.cfg f →
    ∃ t : State, Host.Core.run Sys2Proof.core (g.length + 4) s = .next t ∧ t.rState = .idle ∧
      t.replies = s.replies ++ [⟨0x03, ⟨.ok, .bytes f, .nothing⟩⟩] ∧ t.rDisc = g.length ∧
      t.rCount = f.length ∧ t.rLen.toNat = f.length ∧
      t.transport.pos = s.transport.pos + (g.length + f.length) ∧
      scripted t.transport.script = r ++ scripted more

/-! ### The whole machine -/

/-- 10_state R24 (with R22 and R27): every step keeps the invariants of the reader registers. -/
def Obligations.EveryStepKeepsTheInvariants : Prop :=
  ∀ s t : State, ReaderInv s → step s = .next t → ReaderInv t

/-- The invariants hold at reset (10_state R24, R35). -/
def Obligations.ResetMeetsTheInvariants : Prop := ReaderInv State.reset

/-- From a state that meets the invariants no step faults, and the machine stops only on three events: a reset to an illegal
configuration and a configuration change, which 10_state R27 and 70 R164 have a model refuse (as events of the schedule
they are the model's form: log entries 1 and 7), and operands that 30_encoding R73 says cannot be written, whose refusal by
name is the model's reading (log entry 11, DEDUCED). -/
def Obligations.OnlyRefusedEventsStopTheMachine : Prop :=
  ∀ s : State, ReaderInv s →
    (∃ t, step s = .next t) ∨
    (∃ c op es, s.schedule = .command c :: es ∧ decode c = .error (.operandTypes op) ∧
      step s = .refused .operandTypes) ∨
    (∃ c es, s.schedule = .reset c :: es ∧ c.legal = false ∧ step s = .refused .illegalConfiguration) ∨
    (∃ c es, s.schedule = .configure c :: es ∧ c ≠ s.cfg ∧ step s = .refused .configurationChange)

/-- 42_reader R114 and 70 R156: a NEXT_FRAME call gives exactly one response, in the step that ends it, and none in a reset. -/
def Obligations.EveryCallGetsExactlyOneResponse : Prop :=
  ∀ s t : State, step s = .next t →
    ((∃ c es, s.schedule = .reset c :: es) → t.replies = s.replies ∧ ¬ Busy t) ∧
    ((¬ ∃ c es, s.schedule = .reset c :: es) →
      ∃ l, t.replies = s.replies ++ l ∧
        (l.filter fun r => endsCall r).length = if s.rState ≠ .idle ∧ t.rState = .idle then 1 else 0)

/-- 10_state R30: every response delivered has the shape of its status and command. -/
def Obligations.EveryStepKeepsResponsesShaped : Prop :=
  ∀ s t : State, step s = .next t → (∀ r ∈ s.replies, ReplyShaped r) → ∀ r ∈ t.replies, ReplyShaped r

/-- 60_exceptions R136: the numeric codes, each of one status only, and the classes. -/
def Obligations.StatusCodesAreTheTables : Prop :=
  [Status.ok, .transportError, .tooShort, .badMagic, .lengthMismatch, .noMagic, .shortRead, .timeout, .badLength,
    .headerChecksum, .frameChecksum, .tooLong, .aborted, .illegalCommand, .busy].map Status.code =
  [0x00, 0x01, 0x10, 0x11, 0x12, 0x13, 0x14, 0x15, 0x16, 0x20, 0x21, 0x30, 0x40, 0xF0, 0xF1] ∧
  [Status.ok, .transportError, .tooShort, .badMagic, .lengthMismatch, .noMagic, .shortRead, .timeout, .badLength,
    .headerChecksum, .frameChecksum, .tooLong, .aborted, .illegalCommand, .busy].map Status.errorClass =
  [none, some .transport, some .framing, some .framing, some .framing, some .framing, some .framing, some .framing,
    some .framing, some .checksum, some .checksum, some .build, none, none, none] ∧
  ∀ a b : Status, Status.code a = Status.code b → a = b
end

