-- ==== Sys2Proof/Laws/Buffer.lean ====
section
/-! SUPPORT. What the buffer operations do: a read after a write, the bytes a write leaves alone, the canonical form.
-/
namespace Sys2Proof.Machine

theorem Memory.read_write (m : Memory) (i j : Nat) (b : Byte) :
    Memory.read (Memory.write m i b) j = if j = i then some b else Memory.read m j := by
  induction m with
  | nil => by_cases h : j = i <;> simp [Memory.write, Memory.read, h]
  | cons c rest ih =>
    obtain ⟨k, v⟩ := c
    by_cases h1 : i < k
    · by_cases h : j = i <;> simp [Memory.write, Memory.read, h1, h]
    · by_cases h2 : i = k
      · subst h2
        by_cases h : j = i <;> simp [Memory.write, Memory.read, h]
      · by_cases h3 : j = k
        · subst h3
          simp [Memory.write, Memory.read, h1, h2, Ne.symm h2]
        · simp [Memory.write, Memory.read, h1, h2, h3, ih]

/-- A write of several bytes: what each index reads as afterwards. -/
theorem Memory.read_writeBytes (m : Memory) (i : Nat) (bs : List Byte) (j : Nat) :
    Memory.read (Memory.writeBytes m i bs) j =
      if i ≤ j ∧ j < i + bs.length then bs[j - i]? else Memory.read m j := by
  induction bs generalizing m i with
  | nil =>
    rw [if_neg (by simp)]
    rfl
  | cons b bs ih =>
    simp only [Memory.writeBytes, ih, Memory.read_write, List.length_cons]
    by_cases h : j = i
    · subst h
      simp
    · by_cases h2 : i + 1 ≤ j ∧ j < i + 1 + bs.length
      · have e : j - i = (j - (i + 1)) + 1 := by omega
        rw [if_pos h2, if_pos (by omega), e, List.getElem?_cons_succ]
      · rw [if_neg h2, if_neg h, if_neg (by omega)]

theorem Memory.mem_write {m : Memory} {i : Nat} {b : Byte} {c : Host.Cell} (h : c ∈ Memory.write m i b) :
    c = (i, b) ∨ c ∈ m := by
  induction m with
  | nil => simpa [Memory.write] using h
  | cons d rest ih =>
    obtain ⟨k, v⟩ := d
    unfold Memory.write at h
    split at h
    · simpa using h
    · split at h
      · rcases List.mem_cons.1 h with h | h <;> simp [h]
      · rcases List.mem_cons.1 h with h | h
        · simp [h]
        · rcases ih h with h | h <;> simp [h]

/-- A write inside the buffer keeps the canonical form. -/
theorem Memory.wf_write {m : Memory} {i : Nat} (b : Byte) (hm : Memory.wf m) (hi : i < maxFrame) :
    Memory.wf (Memory.write m i b) := by
  refine ⟨?_, ?_⟩
  · have hp := hm.1
    clear hm
    induction m with
    | nil => simp [Memory.write]
    | cons d rest ih =>
      obtain ⟨k, v⟩ := d
      obtain ⟨h1, h2⟩ := List.pairwise_cons.1 hp
      unfold Memory.write
      split
      · rename_i hlt
        refine List.pairwise_cons.2 ⟨fun c hc => ?_, hp⟩
        rcases List.mem_cons.1 hc with rfl | hc
        · exact hlt
        · exact lt_trans hlt (h1 c hc)
      · split
        · rename_i heq
          subst heq
          exact List.pairwise_cons.2 ⟨h1, h2⟩
        · refine List.pairwise_cons.2 ⟨fun c hc => ?_, ih h2⟩
          rcases Memory.mem_write hc with rfl | hc
          · change k < i
            omega
          · exact h1 c hc
  · intro c hc
    rcases Memory.mem_write hc with rfl | hc
    · exact hi
    · exact hm.2 c hc

theorem Memory.wf_writeBytes {m : Memory} {i : Nat} {bs : List Byte} (hm : Memory.wf m)
    (hi : i + bs.length ≤ maxFrame) : Memory.wf (Memory.writeBytes m i bs) := by
  induction bs generalizing m i with
  | nil => exact hm
  | cons b bs ih =>
    simp only [List.length_cons] at hi
    exact ih (Memory.wf_write b hm (by omega)) (by omega)

theorem Memory.wf_nil : Memory.wf [] := ⟨List.Pairwise.nil, by simp⟩

/-- All a store can do. -/
theorem Memory.store_ok {m m' : Memory} {i : Nat} {bs : List Byte} (h : Memory.store m i bs = .ok m') :
    i + bs.length ≤ maxFrame ∧ m' = Memory.writeBytes m i bs := by
  unfold Memory.store at h
  split at h
  · exact ⟨‹_›, by simpa using h.symm⟩
  · cases h

theorem Memory.store_eq {m : Memory} {i : Nat} {bs : List Byte} (h : i + bs.length ≤ maxFrame) :
    Memory.store m i bs = .ok (Memory.writeBytes m i bs) := if_pos h

/-- A range of bytes that hold values reads as those values, in order. -/
theorem Memory.readBytes_spec {m : Memory} {i n : Nat} {bs : List Byte} (h : Memory.readBytes m i n = some bs) :
    bs.length = n ∧ ∀ k < n, Memory.read m (i + k) = bs[k]? := by
  induction n generalizing i bs with
  | zero =>
    simp only [Memory.readBytes, Option.some.injEq] at h
    subst h
    simp
  | succ n ih =>
    unfold Memory.readBytes at h
    split at h
    · rename_i b cs hb hcs
      obtain rfl := Option.some.inj h
      obtain ⟨hl, hr⟩ := ih hcs
      refine ⟨by simp [hl], fun k hk => ?_⟩
      cases k with
      | zero => simpa using hb
      | succ k =>
        have := hr k (by omega)
        rw [List.getElem?_cons_succ, ← this]
        congr 1
        omega
    · cases h

theorem Memory.readBytes_isSome {m : Memory} {i n : Nat}
    (h : ∀ k < n, (Memory.read m (i + k)).isSome = true) : ∃ bs, Memory.readBytes m i n = some bs := by
  induction n generalizing i with
  | zero => exact ⟨[], rfl⟩
  | succ n ih =>
    obtain ⟨b, hb⟩ := Option.isSome_iff_exists.1 (h 0 (by omega))
    obtain ⟨bs, hbs⟩ := ih (i := i + 1) (fun k hk => by
      have := h (k + 1) (by omega)
      rwa [show i + 1 + k = i + (k + 1) from by omega])
    refine ⟨b :: bs, ?_⟩
    simp only [Nat.add_zero] at hb
    simp [Memory.readBytes, hb, hbs]

/-- All a load can do where it answers bytes. -/
theorem Memory.load_ok {m : Memory} {i n : Nat} {bs : List Byte} (h : Memory.load m i n = .ok bs) :
    i + n ≤ maxFrame ∧ bs.length = n ∧ ∀ k < n, Memory.read m (i + k) = bs[k]? := by
  unfold Memory.load at h
  split at h
  · split at h
    · rename_i h1 _ cs hcs
      obtain rfl : cs = bs := by simpa using h
      exact ⟨h1, Memory.readBytes_spec hcs⟩
    · cases h
  · cases h

/-- A load answers bytes where every byte of its range holds a value. -/
theorem Memory.load_eq {m : Memory} {i n : Nat} (hn : i + n ≤ maxFrame)
    (h : ∀ k < n, (Memory.read m (i + k)).isSome = true) : ∃ bs, Memory.load m i n = .ok bs := by
  obtain ⟨bs, hbs⟩ := Memory.readBytes_isSome h
  exact ⟨bs, by simp [Memory.load, hn, hbs]⟩

/-- The bytes just stored are loaded back. -/
theorem Memory.load_of_read {m : Memory} {i : Nat} {bs : List Byte} (hn : i + bs.length ≤ maxFrame)
    (h : ∀ k < bs.length, Memory.read m (i + k) = bs[k]?) : Memory.load m i bs.length = .ok bs := by
  obtain ⟨cs, hcs⟩ := Memory.load_eq hn (fun k hk => by rw [h k hk]; simp [hk])
  obtain ⟨-, hl, hr⟩ := Memory.load_ok hcs
  have : cs = bs := by
    apply List.ext_getElem? 
    intro k
    by_cases hk : k < bs.length
    · rw [← hr k hk, h k hk]
    · rw [List.getElem?_eq_none (by omega), List.getElem?_eq_none (by omega)]
  rw [hcs, this]

end Sys2Proof.Machine
end

