-- ==== Sys2Proof/Laws/Bytes.lean ====
section
/-! SUPPORT. Byte sequences: what the little-endian forms, the slices and the length word do.
-/
namespace Sys2Proof.Machine

@[simp] theorem le16_length (v : Half) : (le16 v).length = 2 := rfl

/-- A 16-bit value written low byte first reads back. -/
theorem half_bytes (v : Half) : half (v.extractLsb' 0 8) (v.extractLsb' 8 8) = v := by
  apply BitVec.eq_of_getLsbD_eq
  intro i hi
  simp only [half, BitVec.getLsbD_or, BitVec.getLsbD_setWidth, BitVec.getLsbD_shiftLeft, BitVec.getLsbD_extractLsb']
  by_cases h : i < 8
  · simp [h, hi]
  · have h2 : i - 8 < 8 := by omega
    have h3 : 8 + (i - 8) = i := by omega
    have h4 : i - 8 < 16 := by omega
    simp [h, hi, h2, h3, h4]

/-- The low and the high byte of an assembled value are its two bytes. -/
theorem half_low (lo hi : Byte) : (half lo hi).extractLsb' 0 8 = lo := by
  apply BitVec.eq_of_getLsbD_eq
  intro i h
  have h2 : i < 16 := by omega
  simp [half, h, h2]

theorem half_high (lo hi : Byte) : (half lo hi).extractLsb' 8 8 = hi := by
  apply BitVec.eq_of_getLsbD_eq
  intro i h
  have h2 : 8 + i < 16 := by omega
  simp [half, h, h2]

theorem half_inj {a b c d : Byte} (h : half a b = half c d) : a = c ∧ b = d := by
  refine ⟨?_, ?_⟩
  · rw [← half_low a b, h, half_low]
  · rw [← half_high a b, h, half_high]

theorem byteAt_append_left {s t : List Byte} {i : Nat} (h : i < s.length) : byteAt (s ++ t) i = byteAt s i := by
  simp [byteAt, List.getD_eq_getElem?_getD, List.getElem?_append_left h]

theorem byteAt_append_right {s t : List Byte} {i : Nat} (h : s.length ≤ i) :
    byteAt (s ++ t) i = byteAt t (i - s.length) := by
  simp [byteAt, List.getD_eq_getElem?_getD, List.getElem?_append_right h]

theorem slice_length {s : List Byte} {i j : Nat} (h : j < s.length) : (slice s i j).length = j + 1 - i := by
  simp only [slice, List.length_take, List.length_drop]
  omega

/-- The prefix of an append is the first part. -/
theorem slice_append {s t : List Byte} {j : Nat} (h : j + 1 = s.length) : slice (s ++ t) 0 j = s := by
  simp [slice, h]

theorem slice_middle {s t u : List Byte} {i j : Nat} (hi : i = s.length) (hj : j + 1 = i + t.length) :
    slice (s ++ t ++ u) i j = t := by
  subst hi
  have : j + 1 - s.length = t.length := by omega
  simp [slice, this]

/-- The version bits and the length in a length word do not overlap (30_encoding R65). -/
theorem lengthWord_length {v : BitVec 6} {n : Nat} (h : n ≤ maxFrame) :
    ((lengthWord v n).extractLsb' 0 10).toNat = n := by
  have hn : n < 2 ^ 10 := by simp only [maxFrame] at h; omega
  have : (lengthWord v n).extractLsb' 0 10 = BitVec.ofNat 10 n := by
    apply BitVec.eq_of_getLsbD_eq
    intro i hi
    have h2 : i < 16 := by omega
    simp only [lengthWord, BitVec.getLsbD_extractLsb', BitVec.getLsbD_or, BitVec.getLsbD_ofNat, BitVec.getLsbD_shiftLeft]
    simp [hi, h2]
  rw [this, BitVec.toNat_ofNat, Nat.mod_eq_of_lt hn]

theorem lengthWord_version {v : BitVec 6} {n : Nat} (h : n ≤ maxFrame) :
    (lengthWord v n).extractLsb' 10 6 = v := by
  have hn : n < 2 ^ 10 := by simp only [maxFrame] at h; omega
  apply BitVec.eq_of_getLsbD_eq
  intro i hi
  have h2 : 10 + i < 16 := by omega
  have h3 : n.testBit (10 + i) = false := Nat.testBit_lt_two_pow (lt_of_lt_of_le hn (Nat.pow_le_pow_right (by omega) (by omega)))
  simp only [lengthWord, BitVec.getLsbD_extractLsb', BitVec.getLsbD_or, BitVec.getLsbD_ofNat, BitVec.getLsbD_shiftLeft, h3]
  have h4 : i < 16 := by omega
  simp [hi, h2, h4]

/-- The version bits of the length word's high byte (30_encoding R65). -/
theorem versionBits_high (w : Half) : versionBits (w.extractLsb' 8 8) = w.extractLsb' 10 6 := by
  apply BitVec.eq_of_getLsbD_eq
  intro i hi
  have h2 : 2 + i < 8 := by omega
  have h3 : 8 + (2 + i) = 10 + i := by omega
  simp [versionBits, hi, h2, h3]

/-- A length word is its length and its version (30_encoding R65). -/
theorem lengthWord_eq (b1 b2 : Byte) :
    lengthWord (versionBits b2) (decodeLen b1 b2).toNat = half b1 b2 := by
  apply BitVec.eq_of_getLsbD_eq
  intro i hi
  have hlt := (decodeLen b1 b2).isLt
  simp only [lengthWord, BitVec.getLsbD_or, BitVec.getLsbD_ofNat, BitVec.getLsbD_shiftLeft, BitVec.getLsbD_setWidth]
  by_cases h : i < 10
  · have : (decodeLen b1 b2).toNat.testBit i = (half b1 b2).getLsbD i := by
      rw [BitVec.testBit_toNat]
      simp [decodeLen, h]
    simp [hi, h, this]
  · have h3 : (decodeLen b1 b2).toNat.testBit i = false :=
      Nat.testBit_lt_two_pow (lt_of_lt_of_le hlt (Nat.pow_le_pow_right (by omega) (by omega)))
    have h4 : i - 10 < 6 := by omega
    have h5 : 2 + (i - 10) = i - 8 := by omega
    have h7 : i - 10 < 16 := by omega
    have h8 : b1.getLsbD i = false := BitVec.getLsbD_of_ge b1 i (by omega)
    have h9 : ¬ i < 8 := by omega
    simp [hi, h, h3, h4, h5, h7, h8, h9, versionBits, half]

end Sys2Proof.Machine
end

