-- ==== Sys2Proof/Laws/Checksum.lean ====
section
/-! SUPPORT. Each step of the two checksum functions of `DUML_DEFAULT` can be undone, so a difference in the running value
or in the byte is never lost (40_checksums R94, R95).
-/
namespace Sys2Proof.Machine

/-- One shift of the polynomial `0x8C`, undone: the top bit tells whether the polynomial was added. -/
def crc8Unshift : Nat → Byte → Byte
  | 0, c => c
  | k + 1, c => crc8Unshift k (if c.msb then ((c ^^^ 0x8C) <<< 1) ||| 1 else c <<< 1)

theorem crc8Unshift_t8 : ∀ x : Byte, crc8Unshift 8 (t8 x) = x := by decide +kernel

theorem t8_injective {x y : Byte} (h : t8 x = t8 y) : x = y := by
  rw [← crc8Unshift_t8 x, h, crc8Unshift_t8]

/-- The same for the polynomial `0x8408`. -/
def crc16Unshift : Nat → Half → Half
  | 0, c => c
  | k + 1, c => crc16Unshift k (if c.msb then ((c ^^^ 0x8408) <<< 1) ||| 1 else c <<< 1)

/-- An entry of `T16` is told by its high byte alone. -/
theorem crc16Unshift_t16 :
    ∀ x : Byte, (crc16Unshift 8 (((t16 x).extractLsb' 8 8).setWidth 16 <<< 8)).setWidth 8 = x := by decide +kernel

theorem t16_high_injective {x y : Byte} (h : (t16 x).extractLsb' 8 8 = (t16 y).extractLsb' 8 8) : x = y := by
  rw [← crc16Unshift_t16 x, h, crc16Unshift_t16]

/-- The high byte of a step's result is the table entry's. -/
theorem crc16Step_high (v : Half) (b : Byte) :
    (crc16Step v b).extractLsb' 8 8 = (t16 (b ^^^ v.setWidth 8)).extractLsb' 8 8 := by
  apply BitVec.eq_of_getLsbD_eq
  intro i hi
  have h : 16 ≤ 8 + (8 + i) := by omega
  simp [crc16Step, hi, BitVec.getLsbD_of_ge v _ h]

theorem crc16Step_injective_byte {v : Half} {b c : Byte} (h : crc16Step v b = crc16Step v c) : b = c := by
  have h' : b ^^^ v.setWidth 8 = c ^^^ v.setWidth 8 :=
    t16_high_injective (by rw [← crc16Step_high, h, crc16Step_high])
  exact (BitVec.xor_left_inj _).1 h'

theorem crc16Step_injective_value {v w : Half} {b : Byte} (h : crc16Step v b = crc16Step w b) : v = w := by
  have hl : b ^^^ v.setWidth 8 = b ^^^ w.setWidth 8 :=
    t16_high_injective (by rw [← crc16Step_high, h, crc16Step_high])
  have hlow : v.setWidth 8 = w.setWidth 8 := (BitVec.xor_right_inj _).1 hl
  have hs : v >>> 8 = w >>> 8 := by
    unfold crc16Step at h
    rw [hl] at h
    exact (BitVec.xor_left_inj _).1 h
  apply BitVec.eq_of_getLsbD_eq
  intro i hi
  by_cases h8 : i < 8
  · have := congrArg (fun z : Byte => z.getLsbD i) hlow
    simpa [h8] using this
  · have := congrArg (fun z : Half => z.getLsbD (i - 8)) hs
    have e : 8 + (i - 8) = i := by omega
    simpa [e] using this

/-- A difference in the running value is never lost. -/
theorem dumlHdrck_injective {a b : Byte} {s : List Byte} (h : dumlHdrck a s = dumlHdrck b s) : a = b := by
  induction s generalizing a b with
  | nil => exact h
  | cons x s ih => exact (BitVec.xor_right_inj _).1 (t8_injective (ih h))

theorem dumlFrmck_injective {a b : Half} {s : List Byte} (h : dumlFrmck a s = dumlFrmck b s) : a = b := by
  induction s generalizing a b with
  | nil => exact h
  | cons x s ih => exact crc16Step_injective_value (ih h)

end Sys2Proof.Machine
end

