-- ==== Sys2Proof/Laws/PerInstr.lean ====
section
/-! SUPPORT. Statements made of each command as syntax, one lemma per constructor (LAWS.json names the families).
-/
namespace Sys2Proof.Laws

/-- The binary form of a command is a well-formed record (30_encoding R72, R73). -/
def EncodedWellFormed.Statement (i : Instr) : Prop := (encode i).wf = true

theorem EncodedWellFormed.build (seq : Half) (src dst ctype cset cid : Byte) (payload : List Byte) :
    EncodedWellFormed.Statement (.build seq src dst ctype cset cid payload) := rfl

theorem EncodedWellFormed.parse (bytes : List Byte) : EncodedWellFormed.Statement (.parse bytes) := rfl

theorem EncodedWellFormed.nextFrame : EncodedWellFormed.Statement .nextFrame := rfl

theorem EncodedWellFormed.abort : EncodedWellFormed.Statement .abort := rfl

end Sys2Proof.Laws
end

