-- ==== Sys2Proof/Laws/State.lean ====
section
/-! SUPPORT. What each update of the state leaves in each field: one lemma per field per update.
-/
namespace Sys2Proof.Machine

@[simp] theorem State.reply_cfg (s : State) (op : Byte) (r : Response) : (s.reply op r).cfg = s.cfg := rfl
@[simp] theorem State.reply_rState (s : State) (op : Byte) (r : Response) : (s.reply op r).rState = s.rState := rfl
@[simp] theorem State.reply_rBuf (s : State) (op : Byte) (r : Response) : (s.reply op r).rBuf = s.rBuf := rfl
@[simp] theorem State.reply_rCount (s : State) (op : Byte) (r : Response) : (s.reply op r).rCount = s.rCount := rfl
@[simp] theorem State.reply_rLen (s : State) (op : Byte) (r : Response) : (s.reply op r).rLen = s.rLen := rfl
@[simp] theorem State.reply_rDisc (s : State) (op : Byte) (r : Response) : (s.reply op r).rDisc = s.rDisc := rfl
@[simp] theorem State.reply_rRetry (s : State) (op : Byte) (r : Response) : (s.reply op r).rRetry = s.rRetry := rfl
@[simp] theorem State.reply_transport (s : State) (op : Byte) (r : Response) : (s.reply op r).transport = s.transport := rfl
@[simp] theorem State.reply_schedule (s : State) (op : Byte) (r : Response) : (s.reply op r).schedule = s.schedule := rfl
@[simp] theorem State.reply_replies (s : State) (op : Byte) (r : Response) : (s.reply op r).replies = s.replies ++ [⟨op, r⟩] := rfl

@[simp] theorem State.endCall_cfg (s : State) (r : Response) : (s.endCall r).cfg = s.cfg := rfl
@[simp] theorem State.endCall_rState (s : State) (r : Response) : (s.endCall r).rState = .idle := rfl
@[simp] theorem State.endCall_rBuf (s : State) (r : Response) : (s.endCall r).rBuf = s.rBuf := rfl
@[simp] theorem State.endCall_rCount (s : State) (r : Response) : (s.endCall r).rCount = s.rCount := rfl
@[simp] theorem State.endCall_rLen (s : State) (r : Response) : (s.endCall r).rLen = s.rLen := rfl
@[simp] theorem State.endCall_rDisc (s : State) (r : Response) : (s.endCall r).rDisc = s.rDisc := rfl
@[simp] theorem State.endCall_rRetry (s : State) (r : Response) : (s.endCall r).rRetry = s.rRetry := rfl
@[simp] theorem State.endCall_transport (s : State) (r : Response) : (s.endCall r).transport = s.transport := rfl
@[simp] theorem State.endCall_schedule (s : State) (r : Response) : (s.endCall r).schedule = s.schedule := rfl
@[simp] theorem State.endCall_replies (s : State) (r : Response) : (s.endCall r).replies = s.replies ++ [⟨0x03, r⟩] := rfl

@[simp] theorem State.raise_cfg (s : State) (st : Status) (info : Info) : (s.raise st info).cfg = s.cfg := rfl
@[simp] theorem State.raise_rState (s : State) (st : Status) (info : Info) : (s.raise st info).rState = .idle := rfl
@[simp] theorem State.raise_rBuf (s : State) (st : Status) (info : Info) : (s.raise st info).rBuf = s.rBuf := rfl
@[simp] theorem State.raise_rCount (s : State) (st : Status) (info : Info) : (s.raise st info).rCount = s.rCount := rfl
@[simp] theorem State.raise_rLen (s : State) (st : Status) (info : Info) : (s.raise st info).rLen = s.rLen := rfl
@[simp] theorem State.raise_rDisc (s : State) (st : Status) (info : Info) : (s.raise st info).rDisc = s.rDisc := rfl
@[simp] theorem State.raise_rRetry (s : State) (st : Status) (info : Info) : (s.raise st info).rRetry = s.rRetry := rfl
@[simp] theorem State.raise_transport (s : State) (st : Status) (info : Info) : (s.raise st info).transport = s.transport := rfl
@[simp] theorem State.raise_schedule (s : State) (st : Status) (info : Info) : (s.raise st info).schedule = s.schedule := rfl
@[simp] theorem State.raise_replies (s : State) (st : Status) (info : Info) : (s.raise st info).replies = s.replies ++ [⟨0x03, Response.failure st info⟩] := rfl

@[simp] theorem State.startCall_cfg (s : State) : (s.startCall).cfg = s.cfg := rfl
@[simp] theorem State.startCall_rState (s : State) : (s.startCall).rState = .scan := rfl
@[simp] theorem State.startCall_rBuf (s : State) : (s.startCall).rBuf = s.rBuf := rfl
@[simp] theorem State.startCall_rCount (s : State) : (s.startCall).rCount = 0 := rfl
@[simp] theorem State.startCall_rLen (s : State) : (s.startCall).rLen = s.rLen := rfl
@[simp] theorem State.startCall_rDisc (s : State) : (s.startCall).rDisc = 0 := rfl
@[simp] theorem State.startCall_rRetry (s : State) : (s.startCall).rRetry = 0 := rfl
@[simp] theorem State.startCall_transport (s : State) : (s.startCall).transport = s.transport := rfl
@[simp] theorem State.startCall_schedule (s : State) : (s.startCall).schedule = s.schedule := rfl
@[simp] theorem State.startCall_replies (s : State) : (s.startCall).replies = s.replies := rfl

@[simp] theorem State.resetBlock_cfg (s : State) (c : Config) : (s.resetBlock c).cfg = c := rfl
@[simp] theorem State.resetBlock_rState (s : State) (c : Config) : (s.resetBlock c).rState = .idle := rfl
@[simp] theorem State.resetBlock_rBuf (s : State) (c : Config) : (s.resetBlock c).rBuf = [] := rfl
@[simp] theorem State.resetBlock_rCount (s : State) (c : Config) : (s.resetBlock c).rCount = 0 := rfl
@[simp] theorem State.resetBlock_rLen (s : State) (c : Config) : (s.resetBlock c).rLen = 0 := rfl
@[simp] theorem State.resetBlock_rDisc (s : State) (c : Config) : (s.resetBlock c).rDisc = 0 := rfl
@[simp] theorem State.resetBlock_rRetry (s : State) (c : Config) : (s.resetBlock c).rRetry = 0 := rfl
@[simp] theorem State.resetBlock_transport (s : State) (c : Config) : (s.resetBlock c).transport = s.transport := rfl
@[simp] theorem State.resetBlock_schedule (s : State) (c : Config) : (s.resetBlock c).schedule = s.schedule := rfl
@[simp] theorem State.resetBlock_replies (s : State) (c : Config) : (s.resetBlock c).replies = s.replies := rfl

@[simp] theorem State.withSchedule_cfg (s : State) (es : List Event) : (s.withSchedule es).cfg = s.cfg := rfl
@[simp] theorem State.withSchedule_rState (s : State) (es : List Event) : (s.withSchedule es).rState = s.rState := rfl
@[simp] theorem State.withSchedule_rBuf (s : State) (es : List Event) : (s.withSchedule es).rBuf = s.rBuf := rfl
@[simp] theorem State.withSchedule_rCount (s : State) (es : List Event) : (s.withSchedule es).rCount = s.rCount := rfl
@[simp] theorem State.withSchedule_rLen (s : State) (es : List Event) : (s.withSchedule es).rLen = s.rLen := rfl
@[simp] theorem State.withSchedule_rDisc (s : State) (es : List Event) : (s.withSchedule es).rDisc = s.rDisc := rfl
@[simp] theorem State.withSchedule_rRetry (s : State) (es : List Event) : (s.withSchedule es).rRetry = s.rRetry := rfl
@[simp] theorem State.withSchedule_transport (s : State) (es : List Event) : (s.withSchedule es).transport = s.transport := rfl
@[simp] theorem State.withSchedule_schedule (s : State) (es : List Event) : (s.withSchedule es).schedule = es := rfl
@[simp] theorem State.withSchedule_replies (s : State) (es : List Event) : (s.withSchedule es).replies = s.replies := rfl

/-! ### The shapes of a response -/

@[simp] theorem Response.success_status (d : Data) : (Response.success d).status = .ok := rfl
@[simp] theorem Response.success_data (d : Data) : (Response.success d).data = d := rfl
@[simp] theorem Response.success_info (d : Data) : (Response.success d).info = .nothing := rfl
@[simp] theorem Response.failure_status (st : Status) (i : Info) : (Response.failure st i).status = st := rfl
@[simp] theorem Response.failure_data (st : Status) (i : Info) : (Response.failure st i).data = .empty := rfl
@[simp] theorem Response.failure_info (st : Status) (i : Info) : (Response.failure st i).info = i := rfl

end Sys2Proof.Machine
end

