-- ==== Sys2Proof/Laws/Transport.lean ====
section
/-! SUPPORT. All that one read request can do to the transport (20_memory R50, R51).
-/
namespace Sys2Proof.Machine

/-- An answer delivers at most the bytes requested (20_memory R50). -/
theorem Transport.read_bytes_le {t t' : Transport} {n : Nat} {b : List Byte}
    (h : Transport.read t n = (.bytes b, t')) : b.length ≤ n := by
  unfold Transport.read at h
  split at h
  · cases h
  · split at h <;> cases h <;> simp_all
  · split at h
    · cases h; simp
    · cases h; simp
    · split at h <;> cases h
      simp

/-- The position advances by the bytes delivered. -/
theorem Transport.read_pos {t t' : Transport} {n : Nat} {b : List Byte}
    (h : Transport.read t n = (.bytes b, t')) : t'.pos = t.pos + b.length := by
  unfold Transport.read at h
  split at h
  · cases h
  · split at h <;> cases h
    · rfl
    · rename_i hlt
      simp only [List.length_take]
      omega
  · split at h
    · cases h; rfl
    · cases h; simp
    · split at h <;> cases h
      rfl

/-- `TErr` consumes nothing. -/
theorem Transport.read_terr_pos {t t' : Transport} {n : Nat}
    (h : Transport.read t n = (.terr, t')) : t'.pos = t.pos := by
  unfold Transport.read at h
  split at h
  · cases h; rfl
  · split at h <;> cases h
  · split at h
    · cases h
    · cases h
    · split at h <;> cases h
      rfl

/-- A scripted piece as long as the request or shorter is handed out whole. -/
theorem Transport.read_piece (t : Transport) (n : Nat) {b : List Byte} {rest : List Answer}
    (h : t.script = .bytes b :: rest) (hb : b.length ≤ n) :
    Transport.read t n = (.bytes b, { t with script := rest, pos := t.pos + b.length }) := by
  unfold Transport.read
  rw [h]
  simp [hb]

/-- A longer piece is handed out in part; its other bytes stay next in line. -/
theorem Transport.read_part (t : Transport) (n : Nat) {b : List Byte} {rest : List Answer}
    (h : t.script = .bytes b :: rest) (hb : n < b.length) :
    Transport.read t n =
      (.bytes (b.take n), { t with script := .bytes (b.drop n) :: rest, pos := t.pos + n }) := by
  unfold Transport.read
  rw [h]
  simp [Nat.not_le.2 hb]

end Sys2Proof.Machine
end

