-- ==== Sys2Proof/Laws/Reader.lean ====
section
/-! SUPPORT. Everything a reader step can do, said once: one constructor per row of the table of 42_reader R127.
-/
namespace Sys2Proof.Machine

/-- The moves of a reader step with answer `a` to a request of `n` bytes, from the state whose transport has already
answered. -/
inductive ReaderMove (a : Answer) (n : Nat) (s : State) : State → Prop
  /-- `TErr` (42_reader R115). -/
  | terr (ha : a = .terr) : ReaderMove a n s (s.raise .transportError .nothing)
  /-- An empty answer within the budget (R121). -/
  | wait (ha : a = .bytes []) (hr : s.rRetry + 1 ≠ s.cfg.retryBudget) :
      ReaderMove a n s { s with rRetry := s.rRetry + 1 }
  /-- The last empty answer of the budget, with bytes of the phase held (R121). -/
  | held (ha : a = .bytes []) (hr : s.rRetry + 1 = s.cfg.retryBudget) (hg : 0 < s.rCount - phaseStart s.rState) :
      ReaderMove a n s ({ s with rRetry := s.rRetry + 1 }.raise .shortRead (.held (s.rCount - phaseStart s.rState)))
  /-- The last empty answer of the budget, with no byte of the phase held (R121). -/
  | timeout (ha : a = .bytes []) (hr : s.rRetry + 1 = s.cfg.retryBudget) (hg : s.rCount - phaseStart s.rState = 0) :
      ReaderMove a n s ({ s with rRetry := s.rRetry + 1 }.raise .timeout (.retries (s.rRetry + 1)))
  /-- The magic byte (R117). -/
  | magic (b : Byte) (bs : List Byte) (ha : a = .bytes (b :: bs)) (hs : s.rState = .scan) (hb : b = s.cfg.magic) :
      ReaderMove a n s
        { s with rBuf := Memory.write s.rBuf 0 b, rCount := 1, rState := .hdr, rRetry := 0 }
  /-- Another byte, the bound not reached (R117). -/
  | discard (b : Byte) (bs : List Byte) (ha : a = .bytes (b :: bs)) (hs : s.rState = .scan) (hb : b ≠ s.cfg.magic)
      (hd : s.cfg.scanBound ≠ some (s.rDisc + 1)) :
      ReaderMove a n s { s with rDisc := s.rDisc + 1, rRetry := 0 }
  /-- Another byte, the bound reached (R117). -/
  | noMagic (b : Byte) (bs : List Byte) (ha : a = .bytes (b :: bs)) (hs : s.rState = .scan) (hb : b ≠ s.cfg.magic)
      (hd : s.cfg.scanBound = some (s.rDisc + 1)) :
      ReaderMove a n s ({ s with rDisc := s.rDisc + 1, rRetry := 0 }.raise .noMagic (.discarded (s.rDisc + 1)))
  /-- A full link header with a decoded length below 4 (R119). -/
  | badLength (b h : List Byte) (ha : a = .bytes b) (hne : b ≠ []) (hs : s.rState = .hdr) (hb : b.length = n)
      (hi : s.rCount + b.length ≤ maxFrame)
      (hh : Memory.load (Memory.writeBytes s.rBuf s.rCount b) 1 2 = .ok h)
      (hl : (decodeLen (byteAt h 0) (byteAt h 1)).toNat < 4) :
      ReaderMove a n s
        ({ s with rBuf := Memory.writeBytes s.rBuf s.rCount b, rCount := 4, rRetry := 0 }.raise .badLength
          (.decodedLength (decodeLen (byteAt h 0) (byteAt h 1)).toNat))
  /-- A full link header with the decoded length 4 (R119). -/
  | headerOnly (b h c : List Byte) (ha : a = .bytes b) (hne : b ≠ []) (hs : s.rState = .hdr) (hb : b.length = n)
      (hi : s.rCount + b.length ≤ maxFrame)
      (hh : Memory.load (Memory.writeBytes s.rBuf s.rCount b) 1 2 = .ok h)
      (hl : (decodeLen (byteAt h 0) (byteAt h 1)).toNat = 4)
      (hc : Memory.load (Memory.writeBytes s.rBuf s.rCount b) 0 4 = .ok c) :
      ReaderMove a n s
        ({ s with rBuf := Memory.writeBytes s.rBuf s.rCount b, rCount := 4, rRetry := 0,
                  rLen := decodeLen (byteAt h 0) (byteAt h 1) }.endCall (.success (.bytes c)))
  /-- A full link header with a longer length (R119). -/
  | bodyStarts (b h : List Byte) (ha : a = .bytes b) (hne : b ≠ []) (hs : s.rState = .hdr) (hb : b.length = n)
      (hi : s.rCount + b.length ≤ maxFrame)
      (hh : Memory.load (Memory.writeBytes s.rBuf s.rCount b) 1 2 = .ok h)
      (hl : 4 < (decodeLen (byteAt h 0) (byteAt h 1)).toNat) :
      ReaderMove a n s
        { s with rBuf := Memory.writeBytes s.rBuf s.rCount b, rCount := 4, rRetry := 0,
                 rLen := decodeLen (byteAt h 0) (byteAt h 1), rState := .body }
  /-- The whole body (R120). -/
  | candidate (b c : List Byte) (ha : a = .bytes b) (hne : b ≠ []) (hs : s.rState = .body) (hb : b.length = n)
      (hi : s.rCount + b.length ≤ maxFrame)
      (hc : Memory.load (Memory.writeBytes s.rBuf s.rCount b) 0 s.rLen.toNat = .ok c) :
      ReaderMove a n s
        ({ s with rBuf := Memory.writeBytes s.rBuf s.rCount b, rCount := s.rLen.toNat, rRetry := 0 }.endCall
          (.success (.bytes c)))
  /-- A short answer, strict (R122). -/
  | shortStrict (b : List Byte) (ha : a = .bytes b) (hne : b ≠ []) (hs : s.rState = .hdr ∨ s.rState = .body)
      (hb : b.length ≠ n) (hacc : s.cfg.accumulate = false) :
      ReaderMove a n s ({ s with rRetry := 0 }.raise .shortRead (.delivered b.length n))
  /-- A short answer, accumulating (R122). -/
  | shortKept (b : List Byte) (ha : a = .bytes b) (hne : b ≠ []) (hs : s.rState = .hdr ∨ s.rState = .body)
      (hb : b.length ≠ n) (hi : s.rCount + b.length ≤ maxFrame) (hacc : s.cfg.accumulate = true) :
      ReaderMove a n s
        { s with rBuf := Memory.writeBytes s.rBuf s.rCount b, rCount := s.rCount + b.length, rRetry := 0 }

theorem deliver_next {n : Nat} {s t : State} (h : deliver n s = .next t) :
    ∃ c, Memory.load s.rBuf 0 n = .ok c ∧ t = s.endCall (.success (.bytes c)) := by
  unfold deliver at h
  split at h
  · exact ⟨_, ‹_›, by simpa using h.symm⟩
  · cases h

theorem emptyAnswer_move {n : Nat} {s t : State} (h : emptyAnswer s = .next t) : ReaderMove (.bytes []) n s t := by
  unfold emptyAnswer at h
  simp only at h
  split at h
  · split at h
    · cases h
      exact .held rfl ‹_› ‹_›
    · cases h
      exact .timeout rfl ‹_› (by omega)
  · cases h
    exact .wait rfl ‹_›

theorem scanByte_move {b : Byte} {bs : List Byte} {n : Nat} {s t : State} (hs : s.rState = .scan)
    (h : scanByte b s = .next t) : ReaderMove (.bytes (b :: bs)) n s t := by
  unfold scanByte at h
  split at h
  · split at h
    · rename_i m hm
      obtain ⟨-, rfl⟩ := Memory.store_ok hm
      cases h
      exact .magic b bs rfl hs ‹_›
    · cases h
  · simp only at h
    split at h
    · cases h
      exact .noMagic b bs rfl hs ‹_› ‹_›
    · cases h
      exact .discard b bs rfl hs ‹_› ‹_›

theorem headerFull_move {b : List Byte} {s t : State} (hs : s.rState = .hdr) (hne : b ≠ [])
    (h : headerFull b s = .next t) : ReaderMove (.bytes b) b.length s t := by
  unfold headerFull at h
  split at h
  · rename_i m hm
    obtain ⟨hi, rfl⟩ := Memory.store_ok hm
    unfold decodeLength at h
    split at h
    · rename_i hd hh
      simp only at h
      split at h
      · cases h
        exact .badLength b hd rfl hne hs rfl hi hh ‹_›
      · split at h
        · obtain ⟨c, hc, rfl⟩ := deliver_next h
          exact .headerOnly b hd c rfl hne hs rfl hi hh ‹_› hc
        · cases h
          exact .bodyStarts b hd rfl hne hs rfl hi hh (by omega)
    · cases h
  · cases h

theorem bodyFull_move {b : List Byte} {s t : State} (hs : s.rState = .body) (hne : b ≠ [])
    (h : bodyFull b s = .next t) : ReaderMove (.bytes b) b.length s t := by
  unfold bodyFull at h
  split at h
  · rename_i m hm
    obtain ⟨hi, rfl⟩ := Memory.store_ok hm
    obtain ⟨c, hc, rfl⟩ := deliver_next h
    exact .candidate b c rfl hne hs rfl hi hc
  · cases h

theorem shortAnswer_move {b : List Byte} {n : Nat} {s t : State} (hs : s.rState = .hdr ∨ s.rState = .body)
    (hne : b ≠ []) (hb : b.length ≠ n) (h : shortAnswer b n s = .next t) : ReaderMove (.bytes b) n s t := by
  unfold shortAnswer at h
  split at h
  · split at h
    · rename_i m hm
      obtain ⟨hi, rfl⟩ := Memory.store_ok hm
      cases h
      exact .shortKept b rfl hne hs hb hi ‹_›
    · cases h
  · cases h
    exact .shortStrict b rfl hne hs hb (eq_false_of_ne_true ‹_›)

theorem takeAnswer_move {a : Answer} {n : Nat} {s t : State} (h : takeAnswer a n s = .next t) :
    ReaderMove a n s t := by
  unfold takeAnswer at h
  split at h
  · cases h
    exact .terr rfl
  · exact emptyAnswer_move h
  · rename_i b bs
    split at h
    · cases h
    · exact scanByte_move ‹_› h
    · split at h
      · rename_i hl
        subst hl
        exact headerFull_move ‹_› (by simp) h
      · exact shortAnswer_move (.inl ‹_›) (by simp) ‹_› h
    · split at h
      · rename_i hl
        subst hl
        exact bodyFull_move ‹_› (by simp) h
      · exact shortAnswer_move (.inr ‹_›) (by simp) ‹_› h

/-- Everything a reader step can do when it answers a next state. -/
theorem readerStep_next {s t : State} (h : readerStep s = .next t) :
    need s ≠ 0 ∧ ∃ a tr, Transport.read s.transport (need s) = (a, tr) ∧
      ReaderMove a (need s) { s with transport := tr } t := by
  unfold readerStep at h
  split at h
  · cases h
  · exact ⟨‹_›, _, _, rfl, takeAnswer_move h⟩

/-- No reader step writes the configuration or the schedule. -/
theorem ReaderMove.cfg_schedule {a : Answer} {n : Nat} {s t : State} (h : ReaderMove a n s t) :
    t.cfg = s.cfg ∧ t.schedule = s.schedule ∧ t.transport = s.transport := by
  cases h <;> exact ⟨rfl, rfl, rfl⟩

end Sys2Proof.Machine
end

