-- ==== Sys2Proof/Laws/Step.lean ====
section
/-! SUPPORT. Everything a step can do, said once: from the schedule's head down to a command's meaning.
-/
namespace Sys2Proof.Machine

/-- The ways a step answers a next state. -/
theorem step_next {s t : State} (h : step s = .next t) :
    s.cfg.legal = true ∧
      ((s.schedule = [] ∧ readerTurn s = .next t) ∨
        ∃ e es, s.schedule = e :: es ∧ runEvent e (s.withSchedule es) = .next t) := by
  unfold step at h
  split at h
  · refine ⟨‹_›, ?_⟩
    unfold runNext at h
    split at h
    · exact .inl ⟨‹_›, h⟩
    · exact .inr ⟨_, _, ‹_›, h⟩
  · cases h

/-- What a step is when an event is scheduled. -/
theorem step_event {s : State} {e : Event} {es : List Event} (hc : s.cfg.legal = true) (hs : s.schedule = e :: es) :
    step s = runEvent e (s.withSchedule es) := by
  simp [step, hc, runNext, hs]

/-- What a step is when nothing is scheduled. -/
theorem step_unscheduled {s : State} (hc : s.cfg.legal = true) (hs : s.schedule = []) : step s = readerTurn s := by
  simp [step, hc, runNext, hs]

theorem readerTurn_next {s t : State} (h : readerTurn s = .next t) :
    (s.rState = .idle ∧ t = s) ∨ (s.rState ≠ .idle ∧ readerStep s = .next t) := by
  unfold readerTurn at h
  split at h
  · exact .inl ⟨‹_›, by simpa using h.symm⟩
  · exact .inr ⟨‹_›, h⟩

theorem runCommand_next {c : Command} {s t : State} (h : runCommand c s = .next t) :
    (∃ i, decode c = .ok i ∧ exec i s = .next t) ∨
      ∃ op, decode c = .error (.reservedCode op) ∧ t = s.reply op (.failure .illegalCommand .nothing) := by
  unfold runCommand at h
  split at h
  · exact .inl ⟨_, ‹_›, h⟩
  · exact .inr ⟨_, ‹_›, by simpa [reservedCommand] using h.symm⟩
  · cases h

/-- A code the decoder reports as reserved is none of the four assigned ones. -/
theorem decode_reserved {c : Command} {op : Byte} (h : decode c = .error (.reservedCode op)) :
    op = c.op ∧ op ≠ 0x01 ∧ op ≠ 0x02 ∧ op ≠ 0x03 ∧ op ≠ 0x04 := by
  unfold decode at h
  split at h
  · split at h <;> cases h
  · split at h
    · split at h <;> cases h
    · split at h
      · split at h <;> cases h
      · split at h
        · split at h <;> cases h
        · cases h
          exact ⟨rfl, ‹_›, ‹_›, ‹_›, ‹_›⟩

theorem resetTo_next {cfg : Config} {s t : State} (h : resetTo cfg s = .next t) :
    cfg.legal = true ∧ t = s.resetBlock cfg := by
  unfold resetTo at h
  split at h
  · exact ⟨‹_›, by simpa using h.symm⟩
  · cases h

theorem configure_next {cfg : Config} {s t : State} (h : configure cfg s = .next t) : cfg = s.cfg ∧ t = s := by
  unfold configure at h
  split at h
  · exact ⟨‹_›, by simpa using h.symm⟩
  · cases h

/-- What each command leaves (41_codec R97, R103, 42_reader R113, R125): one case per meaning and condition. -/
theorem exec_next {i : Instr} {s t : State} (h : exec i s = .next t) :
    (∃ seq src dst ctype cset cid payload, i = .build seq src dst ctype cset cid payload ∧
      t = s.reply 0x01 (buildResponse s.cfg seq src dst ctype cset cid payload)) ∨
    (∃ bytes, i = .parse bytes ∧ t = s.reply 0x02 (parseResponse s.cfg bytes)) ∨
    (i = .nextFrame ∧ s.rState = .idle ∧ t = s.startCall) ∨
    (i = .nextFrame ∧ s.rState ≠ .idle ∧ t = s.reply 0x03 (.failure .busy .nothing)) ∨
    (i = .abort ∧ s.rState = .idle ∧ t = s.reply 0x04 (.success .empty)) ∨
    (i = .abort ∧ s.rState ≠ .idle ∧ t = (s.raise .aborted .nothing).reply 0x04 (.success .empty)) := by
  cases i with
  | build seq src dst ctype cset cid payload =>
    exact .inl ⟨seq, src, dst, ctype, cset, cid, payload, rfl, by simpa [exec, execBuild] using h.symm⟩
  | parse bytes => exact .inr (.inl ⟨bytes, rfl, by simpa [exec, execParse] using h.symm⟩)
  | nextFrame =>
    simp only [exec, execNextFrame] at h
    split at h
    · exact .inr (.inr (.inl ⟨rfl, ‹_›, by simpa using h.symm⟩))
    · exact .inr (.inr (.inr (.inl ⟨rfl, ‹_›, by simpa using h.symm⟩)))
  | abort =>
    simp only [exec, execAbort] at h
    split at h
    · exact .inr (.inr (.inr (.inr (.inl ⟨rfl, ‹_›, by simpa using h.symm⟩))))
    · exact .inr (.inr (.inr (.inr (.inr ⟨rfl, ‹_›, by simpa using h.symm⟩))))

end Sys2Proof.Machine
end

