-- ==== Sys2Proof/Tests/Slice0.lean ====
section
/-! SUPPORT. Tests. Expected values are the spec's own: the vectors of 95_test_vectors (named in the comments), the encodings of
30_encoding R72, and the printed tables. After them, for each statement with hypotheses, witnesses that meet them.
-/
namespace Sys2Proof.Tests

set_option Elab.async false

open Sys2Proof.Machine Sys2Proof.Safety

/-! ### Helpers -/

/-- `DUML_DEFAULT` with the settings of 95_test_vectors. -/
def cfg0 : Config := Config.dumlDefault none 3

/-- The same with `P_SCAN_BOUND = 3`. -/
def cfgB : Config := Config.dumlDefault (some 3) 3

/-- `cfg0` with `P_ACCUMULATE = true`. -/
def cfgA : Config := { cfg0 with accumulate := true }

def req : List Byte := [0x55, 0x0d, 0x04, 0x33, 0x0a, 0x06, 0xeb, 0x34, 0x40, 0x06, 0x01, 0x74, 0x24]

def tog : List Byte := [0x55, 0x0e, 0x04, 0x66, 0x0a, 0x06, 0xec, 0x34, 0x40, 0x06, 0x24, 0x01, 0x08, 0xf0]

def tel : List Byte :=
  [0x55, 0x26, 0x04, 0xd1, 0x06, 0x0a, 0x00, 0x10, 0x40, 0x06, 0x01, 0x00, 0x00, 0x00, 0x04, 0x00, 0x6c, 0x01, 0x00] ++
  [0x94, 0x06, 0x00, 0x00, 0x04, 0x00, 0x94, 0x06, 0x00, 0x00, 0x00, 0x00, 0x00, 0x00, 0x00, 0x00, 0x00, 0x19, 0x1d]

/-- An idle block, a transport with a script and silence after it, and a schedule. -/
def idle (cfg : Config) (script : List Answer) (schedule : List Event) : State :=
  { State.reset with cfg := cfg, transport := ⟨script, .silent, 0, 0⟩, schedule := schedule }

/-- A call in SCAN. -/
def scanning (cfg : Config) (script : List Answer) : State :=
  { idle cfg script [] with rState := .scan }

/-- A call in HDR, with the magic byte held. -/
def inHeader (cfg : Config) (script : List Answer) : State :=
  { idle cfg script [] with rState := .hdr, rBuf := [(0, 0x55)], rCount := 1 }

/-- The link header of `req` in the buffer. -/
def bodyBuf : Memory := [(0, 0x55), (1, 0x0d), (2, 0x04), (3, 0x33)]

/-- A call in BODY, with the link header of `req` held. -/
def inBody (cfg : Config) (script : List Answer) : State :=
  { idle cfg script [] with rState := .body, rBuf := bodyBuf, rCount := 4, rLen := 13 }

/-- A next state with a property. -/
def answers (o : Host.Outcome State Fault Refusal) (p : State → Bool) : Bool :=
  match o with
  | .next t => p t
  | _ => false

/-- The registers, the position and the responses after a step. -/
def leaves (o : Host.Outcome State Fault Refusal) (st : ReaderState) (count len disc retry pos : Nat)
    (replies : List Reply) : Bool :=
  answers o fun t => decide (t.rState = st ∧ t.rCount = count ∧ t.rLen.toNat = len ∧ t.rDisc = disc ∧ t.rRetry = retry ∧
    t.transport.pos = pos ∧ t.replies = replies)

/-! ### WellFormed: each check refuses an ill-formed term -/

theorem test_wf_build : (Command.mk 0x01 [.halfVal 0x34eb, .byteVal 0x0a, .byteVal 0x06, .byteVal 0x40, .byteVal 0x06,
    .byteVal 0x01, .bytesVal []]).wf = true := by decide

theorem test_wf_wrong_operand_type : (Command.mk 0x01 [.byteVal 0xeb, .byteVal 0x0a, .byteVal 0x06, .byteVal 0x40,
    .byteVal 0x06, .byteVal 0x01, .bytesVal []]).wf = false := by decide

theorem test_wf_missing_operand : (Command.mk 0x02 []).wf = false := by decide

theorem test_wf_extra_operand :
    (Command.mk 0x03 [.byteVal 0]).wf = false ∧ (Command.mk 0x04 [.bytesVal []]).wf = false := by decide

theorem test_wf_reserved_code : (Command.mk 0x00 []).wf = false ∧ (Command.mk 0x05 []).wf = false := by decide

theorem test_config_zero_seed : ({ cfg0 with hdrSeed := 0 } : Config).legal = false := by decide

theorem test_config_zero_scan_bound :
    (Config.dumlDefault (some 0) 1).legal = false ∧ (Config.dumlDefault (some 1) 1).legal = true := by decide

theorem test_config_zero_retry_budget : (Config.dumlDefault none 0).legal = false := by decide

/-! ### Decode: the code bytes of 30_encoding R72 with operands of R73 (95_test_vectors L3 P1, P2) -/

theorem test_decode_build : decode ⟨0b00000001#8, [.halfVal 0x34ec, .byteVal 0x0a, .byteVal 0x06, .byteVal 0x40, .byteVal 0x06,
    .byteVal 0x24, .bytesVal [0x01]]⟩ = .ok (.build 0x34ec 0x0a 0x06 0x40 0x06 0x24 [0x01]) := by decide

theorem test_decode_parse : decode ⟨0b00000010#8, [.bytesVal [0x55, 0x0d]]⟩ = .ok (.parse [0x55, 0x0d]) := by decide

theorem test_decode_next_frame : decode ⟨0b00000011#8, []⟩ = .ok .nextFrame := by decide

theorem test_decode_abort : decode ⟨0b00000100#8, []⟩ = .ok .abort := by decide

theorem test_decode_reserved :
    [0x00, 0x05, 0xff].map (fun op => decode ⟨op, []⟩) =
      [0x00, 0x05, 0xff].map (fun op => .error (.reservedCode op)) := by decide

theorem test_decode_refuses_wrong_types : decode ⟨0x02, [.byteVal 0]⟩ = .error (.operandTypes 0x02) := by decide

theorem test_decode_table_words :
    [1, 2, 3, 4].map (decodeTableWord 8) =
      [some (.build 0 0 0 0 0 0 []), some (.parse []), some .nextFrame, some .abort] := by decide

theorem test_decode_table_reserved : [0, 5, 0xff].map (decodeTableWord 8) = [none, none, none] := by decide

/-! ### BUILD and PARSE (95_test_vectors L2.2, L2.3) -/

/-- B2. -/
theorem test_build_tog : answers (exec (.build 0x34ec 0x0a 0x06 0x40 0x06 0x24 [0x01]) (idle cfg0 [] []))
    (fun t => decide (t.replies = [⟨0x01, .ok, .bytes tog, .nothing⟩])) = true := by decide +kernel

/-- B6. -/
theorem test_build_too_long : answers (exec (.build 0 1 2 3 4 5 (List.replicate 1011 0)) (idle cfg0 [] []))
    (fun t => decide (t.replies = [⟨0x01, .tooLong, .empty, .computedLength 1024⟩])) = true := by decide +kernel

/-- P1. -/
theorem test_parse_req : answers (exec (.parse req) (idle cfg0 [] []))
    (fun t => decide (t.replies = [⟨0x02, .ok, .frame ⟨13, 1, 0x33, 0x0a, 0x06, 0x34eb, 0x40, 0x06, 0x01, [], 11, 0x2474⟩,
      .nothing⟩])) = true := by decide +kernel

/-- P11: both checksums are wrong, the header's is reported. -/
theorem test_parse_header_first :
    answers (exec (.parse [0x55, 0x0d, 0x04, 0x32, 0x0a, 0x06, 0xeb, 0x34, 0x40, 0x06, 0x01, 0x74, 0x25]) (idle cfg0 [] []))
      (fun t => decide (t.replies = [⟨0x02, .headerChecksum, .empty, .storedHeader 0x32⟩])) = true := by decide +kernel

/-! ### The reader (95_test_vectors L2.4) -/

/-- N1, N7: a call starts; the registers of the last call are cleared but for `R_LEN`. -/
theorem test_next_frame_starts :
    leaves (step { idle cfg0 [] [.command ⟨0x03, []⟩] with rCount := 13, rLen := 13, rDisc := 2, rRetry := 3 })
      .scan 0 13 0 0 0 [] = true := by decide

/-- N53. -/
theorem test_next_frame_busy :
    leaves (exec .nextFrame (inHeader cfg0 [])) .hdr 1 0 0 0 0 [⟨0x03, .busy, .empty, .nothing⟩] = true := by decide

/-- N52: the call responds first. -/
theorem test_abort_busy :
    leaves (exec .abort (inBody cfg0 [])) .idle 4 13 0 0 0
      [⟨0x03, .aborted, .empty, .nothing⟩, ⟨0x04, .ok, .empty, .nothing⟩] = true := by decide

/-- N50. -/
theorem test_abort_idle :
    leaves (exec .abort (idle cfg0 [] [])) .idle 0 0 0 0 0 [⟨0x04, .ok, .empty, .nothing⟩] = true := by decide

/-- N40, the third byte. -/
theorem test_scan_bound :
    leaves (step { scanning cfgB [.bytes [0x02]] with rDisc := 2 }) .idle 0 0 3 0 1
      [⟨0x03, .noMagic, .empty, .discarded 3⟩] = true := by decide

/-- N11. -/
theorem test_bad_length :
    leaves (step (inHeader cfg0 [.bytes [0x03, 0x04, 0x00]])) .idle 4 0 0 0 3
      [⟨0x03, .badLength, .empty, .decodedLength 3⟩] = true := by decide

/-- N12. -/
theorem test_header_only :
    leaves (step (inHeader cfg0 [.bytes [0x04, 0x04, 0x81]])) .idle 4 4 0 0 3
      [⟨0x03, .ok, .bytes [0x55, 0x04, 0x04, 0x81], .nothing⟩] = true := by decide

/-- N1, the last step. -/
theorem test_body :
    leaves (step (inBody cfg0 [.bytes (req.drop 4)])) .idle 13 13 0 0 9 [⟨0x03, .ok, .bytes req, .nothing⟩] = true := by
  decide

/-- N31. -/
theorem test_short_read_strict :
    leaves (step (inBody cfg0 [.bytes [0x0a, 0x06, 0xeb, 0x34]])) .idle 4 13 0 0 4
      [⟨0x03, .shortRead, .empty, .delivered 4 9⟩] = true := by decide

/-- N32, its second answer. -/
theorem test_short_answer_kept :
    leaves (step (inHeader cfgA [.bytes [0x0d]])) .hdr 2 0 0 0 1 [] = true := by decide

/-- N35, its last step. -/
theorem test_timeout :
    leaves (step { inBody cfg0 [] with rRetry := 2 }) .idle 4 13 0 3 0 [⟨0x03, .timeout, .empty, .retries 3⟩] = true := by
  decide

/-- N37. -/
theorem test_transport_error :
    leaves (step (inHeader cfg0 [.terr])) .idle 1 0 0 0 0 [⟨0x03, .transportError, .empty, .nothing⟩] = true := by decide

/-- X4. -/
theorem test_reserved_code_busy :
    leaves (step { inHeader cfg0 [] with schedule := [.command ⟨0x05, []⟩] }) .hdr 1 0 0 0 0
      [⟨0x05, .illegalCommand, .empty, .nothing⟩] = true := by decide

/-! ### The client's words (95_test_vectors L1.5 and L3 P2; 60_exceptions R149) -/

/-- P2 step 4. -/
theorem test_recv_telemetry :
    (match (recvResponse cfg0 ⟨.ok, .bytes tel, .nothing⟩).data with
      | .frame f => telemetryOf f
      | _ => none) = some ⟨0x0400, 0x016c, 0x0694, 0x0400, 0x0694⟩ := by decide +kernel

/-- A 13-byte frame is no telemetry (L3 P2 step 2). -/
theorem test_request_is_no_telemetry :
    (match (recvResponse cfg0 ⟨.ok, .bytes req, .nothing⟩).data with
      | .frame f => telemetryOf f
      | _ => some ⟨0, 0, 0, 0, 0⟩) = none := by decide +kernel

theorem test_sequence_wraps : nextSequence 0xffff = 0x0000 := by decide

/-! ### A word placed for the next step is the next command to run -/

theorem test_fetch_runs_the_placed_word :
    answers (step (State.reset.withFetchWord 8 1))
      (fun t => decide (t.replies.map (fun r => (r.op, r.response.status)) = [(0x01, .ok)])) = true ∧
    answers (step (State.reset.withFetchWord 8 2))
      (fun t => decide (t.replies = [⟨0x02, .tooShort, .empty, .inputLength 0⟩])) = true ∧
    leaves (step (State.reset.withFetchWord 8 3)) .scan 0 0 0 0 0 [] = true ∧
    leaves (step (State.reset.withFetchWord 8 4)) .idle 0 0 0 0 0 [⟨0x04, .ok, .empty, .nothing⟩] = true := by
  decide +kernel

/-- The buffer of the reset state is in canonical form. -/
theorem reset_buffer_wf : Memory.wf State.reset.rBuf := by decide

/-! ### Witnesses: concrete states and operands that meet the hypotheses of each statement -/

/-- The configuration of the checksum witnesses: another seed and another initial value than `DUML_DEFAULT`'s. -/
def cfgW : Config := { cfg0 with hdrSeed := 0x01, frmInit := 0x0000 }

def frameW : List Byte := buildFrame cfgW 0x34eb 0x0a 0x06 0x40 0x06 0x01 []

theorem flip_splits {s : List Byte} {i j : Nat} (hi : i < s.length) (hj : j < 8) :
    ∃ (p q : List Byte) (b c : Byte), s = p ++ b :: q ∧ flipBit s i j = p ++ c :: q ∧ b ≠ c := by
  refine ⟨s.take i, s.drop (i + 1), s[i], s[i] ^^^ BitVec.twoPow 8 j, ?_, ?_, ?_⟩
  · simp
  · have hb : byteAt s i = s[i] := by simp [byteAt, List.getD_eq_getElem?_getD, hi]
    rw [flipBit, hb, List.set_eq_take_append_cons_drop, if_pos hi]
  · intro h
    have := congrArg (fun z : Byte => z.getLsbD j) h
    simp [hj] at this

theorem witness_hdrSensitive : HdrSensitive cfgW := by
  intro s i j hl hi hj h
  obtain ⟨p, q, b, c, rfl, hf, hne⟩ := flip_splits (s := s) (i := i) (j := j) (by omega) hj
  rw [hf] at h
  simp only [hdrck, cfgW, cfg0, Config.dumlDefault, HdrAlg.run, dumlHdrck, List.foldl_append, List.foldl_cons] at h
  exact hne ((BitVec.xor_left_inj _).1 (t8_injective (dumlHdrck_injective h))).symm

theorem witness_frmSensitive : FrmSensitive cfgW := by
  intro s i j _ hi hj h
  obtain ⟨p, q, b, c, rfl, hf, hne⟩ := flip_splits (s := s) (i := i) (j := j) hi hj
  rw [hf] at h
  simp only [frmck, cfgW, cfg0, Config.dumlDefault, FrmAlg.run, dumlFrmck, List.foldl_append, List.foldl_cons] at h
  exact hne (crc16Step_injective_byte (dumlFrmck_injective h)).symm

theorem witness_inv_idle (script : List Answer) (es : List Event) : ReaderInv (idle cfgB script es) where
  legal := (by decide : cfgB.legal = true)
  bufWf := (by decide : Memory.wf [])
  count := (by decide : 0 ≤ maxFrame)
  held := (by decide : ∀ i < 0, (Memory.read [] i).isSome = true)
  disc b h := by
    obtain rfl : 3 = b := Option.some.inj h
    exact (by decide : 0 ≤ 3 ∧ (ReaderState.idle ≠ .idle → 0 < 3))
  retry := (by decide : 0 ≤ 3 ∧ (ReaderState.idle ≠ .idle → 0 < 3))
  scan := (by decide : ReaderState.idle = .scan → 0 = 0)
  hdr := (by decide : ReaderState.idle = .hdr → 1 ≤ 0 ∧ 0 ≤ 3 ∧ Memory.read [] 0 = some cfgB.magic)
  body h := by cases h

theorem witness_inv_scan (script : List Answer) : ReaderInv (scanning cfgB script) where
  legal := (by decide : cfgB.legal = true)
  bufWf := (by decide : Memory.wf [])
  count := (by decide : 0 ≤ maxFrame)
  held := (by decide : ∀ i < 0, (Memory.read [] i).isSome = true)
  disc b h := by
    obtain rfl : 3 = b := Option.some.inj h
    exact (by decide : 0 ≤ 3 ∧ (ReaderState.scan ≠ .idle → 0 < 3))
  retry := (by decide : 0 ≤ 3 ∧ (ReaderState.scan ≠ .idle → 0 < 3))
  scan := (by decide : ReaderState.scan = .scan → 0 = 0)
  hdr := (by decide : ReaderState.scan = .hdr → 1 ≤ 0 ∧ 0 ≤ 3 ∧ Memory.read [] 0 = some cfgB.magic)
  body h := by cases h

theorem witness_inv_header (script : List Answer) : ReaderInv (inHeader cfgB script) where
  legal := (by decide : cfgB.legal = true)
  bufWf := (by decide : Memory.wf [(0, 0x55)])
  count := (by decide : 1 ≤ maxFrame)
  held := (by decide : ∀ i < 1, (Memory.read [(0, 0x55)] i).isSome = true)
  disc b h := by
    obtain rfl : 3 = b := Option.some.inj h
    exact (by decide : 0 ≤ 3 ∧ (ReaderState.hdr ≠ .idle → 0 < 3))
  retry := (by decide : 0 ≤ 3 ∧ (ReaderState.hdr ≠ .idle → 0 < 3))
  scan := (by decide : ReaderState.hdr = .scan → 1 = 0)
  hdr := (by decide : ReaderState.hdr = .hdr → 1 ≤ 1 ∧ 1 ≤ 3 ∧ Memory.read [(0, 0x55)] 0 = some cfgB.magic)
  body h := by cases h

theorem witness_inv_body (script : List Answer) : ReaderInv (inBody cfgB script) where
  legal := (by decide : cfgB.legal = true)
  bufWf := (by decide : Memory.wf bodyBuf)
  count := (by decide : 4 ≤ maxFrame)
  held := (by decide : ∀ i < 4, (Memory.read bodyBuf i).isSome = true)
  disc b h := by
    obtain rfl : 3 = b := Option.some.inj h
    exact (by decide : 0 ≤ 3 ∧ (ReaderState.body ≠ .idle → 0 < 3))
  retry := (by decide : 0 ≤ 3 ∧ (ReaderState.body ≠ .idle → 0 < 3))
  scan := (by decide : ReaderState.body = .scan → 4 = 0)
  hdr := (by decide : ReaderState.body = .hdr → 1 ≤ 4 ∧ 4 ≤ 3 ∧ Memory.read bodyBuf 0 = some cfgB.magic)
  body _ := (by decide : 4 ≤ 4 ∧ 4 < (13 : BitVec 10).toNat ∧ Memory.read bodyBuf 0 = some cfgB.magic).imp_right fun h =>
    ⟨h.1, h.2, 0x0d, 0x04, rfl, rfl, rfl⟩

/-! Encoding and the step -/

theorem witness_DecodingInvertsEncoding : decode ⟨0x02, [.bytesVal req]⟩ = .ok (.parse req) := rfl

theorem witness_ReservedCodesAnswerIllegalCommand :
    (∀ op ∈ ([0x00, 0x05, 0xff] : List Byte), op ≠ 0x01 ∧ op ≠ 0x02 ∧ op ≠ 0x03 ∧ op ≠ 0x04) ∧
    (inBody cfg0 []).cfg.legal = true ∧
    (idle cfg0 [] [.command ⟨0x05, [.byteVal 1]⟩]).cfg.legal = true ∧
    (idle cfg0 [] [.command ⟨0x05, [.byteVal 1]⟩]).schedule = .command ⟨0x05, [.byteVal 1]⟩ :: [] := by decide

theorem witness_LengthDecodeIgnoresVersionBits :
    (0xfc &&& 0x03 : Byte) = 0x00 &&& 0x03 ∧ (0xff &&& 0x03 : Byte) = 0x03 &&& 0x03 := by decide

theorem witness_StepRunsTheScheduledCommand :
    (idle cfg0 [] [.command ⟨0x04, []⟩]).cfg.legal = true ∧
    (idle cfg0 [] [.command ⟨0x04, []⟩]).schedule = .command ⟨0x04, []⟩ :: [] ∧ decode ⟨0x04, []⟩ = .ok .abort ∧
    decode (tableCommand 1) = .ok (.build 0 0 0 0 0 0 []) ∧ decode (tableCommand 2) = .ok (.parse []) ∧
    decode (tableCommand 3) = .ok .nextFrame := by decide

theorem witness_ReaderStepsOnlyWhileBusy :
    (idle cfg0 [] []).cfg.legal = true ∧ (idle cfg0 [] []).schedule = [] ∧ (idle cfg0 [] []).rState = .idle ∧
    (inBody cfg0 []).cfg.legal = true ∧ (inBody cfg0 []).schedule = [] ∧ (inBody cfg0 []).rState ≠ .idle ∧
    (idle cfg0 [] [.readerTurn]).schedule = .readerTurn :: [] ∧ (idle cfg0 [] [.readerTurn]).rState = .idle ∧
    ({ inBody cfg0 [] with schedule := [.readerTurn] } : State).schedule = .readerTurn :: [] ∧
    ({ inBody cfg0 [] with schedule := [.readerTurn] } : State).rState ≠ .idle := by decide

theorem witness_IllegalConfigurationsAreRefused :
    (idle (Config.dumlDefault (some 0) 3) [] []).cfg.legal = false ∧
    (idle cfg0 [] [.reset (Config.dumlDefault none 0)]).cfg.legal = true ∧
    (Config.dumlDefault none 0).legal = false ∧
    (idle cfg0 [] [.configure cfgA]).cfg.legal = true ∧ cfgA ≠ (idle cfg0 [] [.configure cfgA]).cfg := by decide

theorem witness_ResetClearsTheReaderAndFixesTheConfiguration :
    (∃ t, step (idle cfg0 [] [.command ⟨0x04, []⟩]) = .next t) ∧ (∃ t, step (idle cfg0 [] [.reset cfgA]) = .next t) ∧
    ({ inBody cfg0 [] with schedule := [.reset cfgA] } : State).cfg.legal = true ∧ cfgA.legal = true ∧
    ({ inBody cfg0 [] with schedule := [.reset cfgA] } : State).schedule = .reset cfgA :: [] ∧
    ({ inBody cfg0 [] with schedule := [.reset cfgA] } : State).rState = .body :=
  ⟨⟨_, rfl⟩, ⟨_, rfl⟩, by decide⟩

theorem witness_CommandsLeaveTheRestUnchanged :
    (∃ t, exec (.build 1 2 3 4 5 6 []) (inBody cfg0 []) = .next t) ∧ (∃ t, exec (.parse req) (inBody cfg0 []) = .next t) ∧
    (∃ t, exec .nextFrame (idle cfg0 [] []) = .next t) ∧ ∃ t, exec .abort (inBody cfg0 []) = .next t :=
  ⟨⟨_, rfl⟩, ⟨_, rfl⟩, ⟨_, rfl⟩, ⟨_, rfl⟩⟩

/-! BUILD and PARSE -/

theorem witness_BuildSerialisesItsOperands :
    ([] : List Byte).length ≤ 1010 ∧ (List.replicate 1010 (0x55 : Byte)).length ≤ 1010 ∧
    1010 < (List.replicate 1011 (0x55 : Byte)).length ∧ (idle cfg0 [] []).cfg = Config.dumlDefault none 3 := by
  rw [List.length_replicate, List.length_replicate]
  exact ⟨by decide, by decide, by decide, rfl⟩

theorem witness_BuiltFramesAreValid :
    exec (.build 0x34eb 0x0a 0x06 0x40 0x06 0x01 []) (idle cfg0 [] []) =
      .next (told (idle cfg0 [] []) 0x01 .ok (.bytes (buildFrame cfg0 0x34eb 0x0a 0x06 0x40 0x06 0x01 [])) .nothing) := rfl

/-- One input for each clause, at the clause's edge: 12 bytes; 13 bytes with the wrong magic; a length one too small; each
checksum one bit off; a valid frame. -/
theorem witness_ParseReportsFirstFailureOrTheFields :
    ((req.take 12).length < 13) ∧
    (13 ≤ req.length ∧ byteAt (req.set 0 0x54) 0 ≠ cfg0.magic) ∧
    (byteAt (req.set 1 0x0c) 0 = cfg0.magic ∧
      (decodeLen (byteAt (req.set 1 0x0c) 1) (byteAt (req.set 1 0x0c) 2)).toNat ≠ (req.set 1 0x0c).length) ∧
    ((decodeLen (byteAt (req.set 3 0x32) 1) (byteAt (req.set 3 0x32) 2)).toNat = (req.set 3 0x32).length ∧
      byteAt (req.set 3 0x32) 3 ≠ hdrck cfg0 (slice (req.set 3 0x32) 0 2)) ∧
    (byteAt (req.set 12 0x25) 3 = hdrck cfg0 (slice (req.set 12 0x25) 0 2) ∧
      rd16 (req.set 12 0x25) 11 ≠ frmck cfg0 (slice (req.set 12 0x25) 0 10)) ∧
    rd16 req 11 = frmck cfg0 (slice req 0 10) := by decide +kernel

theorem witness_ParseAcceptsExactlyValidFrames : Valid cfg0 req ∧ Valid cfg0 tel ∧ ¬ Valid cfg0 [] := by decide +kernel

theorem witness_ParseOfBuildReturnsTheOperands :
    (List.replicate 1010 (0x55 : Byte)).length ≤ 1010 ∧ (inBody cfg0 []).cfg = (idle cfg0 [] []).cfg := by
  rw [List.length_replicate]
  decide

theorem witness_BuildOfParsedFieldsReturnsTheFrame :
    Valid (idle cfg0 [] []).cfg tog ∧ versionBits (byteAt tog 2) = (idle cfg0 [] []).cfg.version := by decide +kernel

/-- A frame of another seed and initial value, with a bit for each row of the table of 41_codec R110, at the rows' edges. -/
theorem witness_SingleBitFlipsAreReported :
    HdrSensitive (idle cfgW [] []).cfg ∧ FrmSensitive (idle cfgW [] []).cfg ∧ Valid (idle cfgW [] []).cfg frameW ∧
    ∀ p ∈ ([(0, 0), (0, 7), (1, 0), (1, 7), (2, 0), (2, 1), (2, 2), (2, 7), (3, 0), (3, 7), (4, 0), (12, 7)] : List (Nat × Nat)),
      p.1 < frameW.length ∧ p.2 < 8 :=
  ⟨witness_hdrSensitive, witness_frmSensitive, by decide +kernel⟩

/-- `TOG` cut by 1 leaves 13 bytes, by 2 leaves 12, by 14 none (95_test_vectors L1.3). -/
theorem witness_TruncationAndExtensionAreReported :
    Valid cfg0 tog ∧ (∀ k ∈ [1, 2, 14], 1 ≤ k ∧ k ≤ tog.length) ∧ ([0x00] : List Byte) ≠ [] := by decide +kernel

theorem witness_OverlongInputsAreRejected : 1023 < (List.replicate 1024 (0x55 : Byte)).length := by
  rw [List.length_replicate]
  decide

theorem witness_CodecResponsesIgnoreTheReader :
    (idle cfg0 [] []).cfg = (inBody cfg0 []).cfg ∧ idle cfg0 [] [] ≠ inBody cfg0 [] ∧ Instr.parse req ≠ .nextFrame ∧
    Instr.parse req ≠ .abort := by decide

theorem witness_DefaultHeaderChecksumIsSensitive :
    ([0x55, 0x0d, 0x04] : List Byte).length = 3 ∧ 2 < 3 ∧ 7 < 8 := by decide

theorem witness_DefaultFrameChecksumIsSensitive :
    (List.replicate 1021 (0x55 : Byte)).length ≤ 1021 ∧ 1020 < (List.replicate 1021 (0x55 : Byte)).length ∧ 7 < 8 := by
  rw [List.length_replicate]
  decide

/-! The reader -/

theorem witness_NextFrameStartsACallOrAnswersBusy :
    (idle cfg0 [] []).rState = .idle ∧ (scanning cfg0 []).rState ≠ .idle ∧ (inBody cfg0 []).rState ≠ .idle := by decide

theorem witness_AbortEndsTheCallInProgress :
    (idle cfg0 [] []).rState = .idle ∧ (inHeader cfg0 []).rState ≠ .idle := by decide

/-- The magic byte; another byte with the bound `INF`, and with the bound 3 not reached; the third byte. -/
theorem witness_ScanStepFindsMagicOrDiscards :
    (scanning cfgB [.bytes [0x55]]).rState = .scan ∧
    (∃ tr, Transport.read (scanning cfgB [.bytes [0x55]]).transport 1 = (.bytes [0x55], tr)) ∧ 0x55 = cfgB.magic ∧
    (∃ tr, Transport.read (scanning cfgB [.bytes [0x54]]).transport 1 = (.bytes [0x54], tr)) ∧ 0x54 ≠ cfgB.magic ∧
    cfg0.scanBound ≠ some (0 + 1) ∧ cfgB.scanBound ≠ some (1 + 1) ∧ cfgB.scanBound = some (2 + 1) :=
  ⟨by decide, ⟨_, rfl⟩, by decide, ⟨_, rfl⟩, by decide⟩

/-- Decoded lengths 3, 4 and 5, with one byte and with three bytes held. -/
theorem witness_HeaderStepDecodesTheLength :
    (∀ i < 1, (Memory.read (inHeader cfg0 []).rBuf i).isSome = true) ∧
    (∀ b ∈ ([[0x03, 0x04, 0x00], [0x04, 0x04, 0x81], [0x05, 0x04, 0x00]] : List (List Byte)),
      b.length = 4 - (inHeader cfg0 []).rCount ∧
      (Transport.read (inHeader cfg0 [.bytes b]).transport (4 - (inHeader cfg0 []).rCount)).1 = .bytes b ∧
      Memory.read (Memory.writeBytes (inHeader cfg0 []).rBuf 1 b) 2 = some 0x04) ∧
    (decodeLen 0x03 0x04).toNat < 4 ∧ (decodeLen 0x04 0x04).toNat = 4 ∧ 4 < (decodeLen 0x05 0x04).toNat ∧
    (let s : State := { inHeader cfg0 [.bytes [0x00]] with rBuf := [(0, 0x55), (1, 0xff), (2, 0x07)], rCount := 3 }
     s.rState = .hdr ∧ s.rCount ≤ 3 ∧ (∀ i < s.rCount, (Memory.read s.rBuf i).isSome = true) ∧
     (Transport.read s.transport (4 - s.rCount)).1 = .bytes [0x00] ∧ (decodeLen 0xff 0x07).toNat = 1023) := by decide

theorem witness_BodyStepDeliversTheCandidate :
    (inBody cfg0 [.bytes (req.drop 4)]).rState = .body ∧
    (inBody cfg0 []).rCount < (inBody cfg0 []).rLen.toNat ∧
    (∀ i < (inBody cfg0 []).rCount, (Memory.read (inBody cfg0 []).rBuf i).isSome = true) ∧
    (req.drop 4).length = (inBody cfg0 []).rLen.toNat - (inBody cfg0 []).rCount ∧
    (Transport.read (inBody cfg0 [.bytes (req.drop 4)]).transport 9).1 = .bytes (req.drop 4) := by decide

/-- The budget not spent; spent with no byte of the phase held; spent with one held (N33, N35, N36); a delivered byte. -/
theorem witness_EmptyAnswersSpendTheRetryBudget :
    need (inBody cfgA []) ≠ 0 ∧ (∃ tr, Transport.read (inBody cfgA []).transport (need (inBody cfgA [])) = (.bytes [], tr)) ∧
    1 + 1 ≠ cfgA.retryBudget ∧ 2 + 1 = cfgA.retryBudget ∧ (inBody cfgA []).rCount ≤ phaseStart (inBody cfgA []).rState ∧
    phaseStart ({ inBody cfgA [] with rCount := 5 } : State).rState < 5 ∧
    (∃ tr, Transport.read (inBody cfgA [.bytes [0x0a]]).transport (need (inBody cfgA [.bytes [0x0a]])) =
      (.bytes [0x0a], tr)) ∧ ∃ t, readerStep (inBody cfgA [.bytes [0x0a]]) = .next t :=
  ⟨by decide, ⟨_, rfl⟩, by decide, by decide, by decide, by decide, ⟨_, rfl⟩, ⟨_, rfl⟩⟩

/-- One byte short, strict and accumulating. -/
theorem witness_ShortAnswersFailOrAccumulate :
    (inHeader cfg0 []).rState = .hdr ∧ 1 ≤ ([0x0d, 0x04] : List Byte).length ∧
    ([0x0d, 0x04] : List Byte).length < need (inHeader cfg0 []) ∧
    (Transport.read (inHeader cfg0 [.bytes [0x0d, 0x04]]).transport 3).1 = .bytes [0x0d, 0x04] ∧
    cfg0.accumulate = false ∧ (inBody cfgA []).rState = .body ∧ 8 < need (inBody cfgA []) ∧ cfgA.accumulate = true := by
  decide

theorem witness_TransportErrorsEndTheCall :
    ReaderInv (inHeader cfgB [.terr]) ∧ Busy (inHeader cfgB [.terr]) ∧ 1 ≤ need (inHeader cfgB [.terr]) ∧
    ∃ tr, Transport.read (inHeader cfgB [.terr]).transport (need (inHeader cfgB [.terr])) = (.terr, tr) :=
  ⟨witness_inv_header _, by decide, by decide, ⟨_, rfl⟩⟩

/-- A step in SCAN, one in HDR and one with an empty answer. -/
theorem witness_ReaderStepLeavesTheRestUnchanged :
    (∃ a tr t, Transport.read (scanning cfg0 [.bytes [0x00]]).transport 1 = (a, tr) ∧
      readerStep (scanning cfg0 [.bytes [0x00]]) = .next t ∧ (scanning cfg0 [.bytes [0x00]]).rState ≠ .hdr) ∧
    (∃ a tr t, Transport.read (inHeader cfg0 [.bytes [0x05, 0x04, 0x00]]).transport 3 = (a, tr) ∧
      readerStep (inHeader cfg0 [.bytes [0x05, 0x04, 0x00]]) = .next t ∧ (inHeader cfg0 []).rState ≠ .scan) ∧
    ∃ a tr t, Transport.read (inBody cfg0 []).transport 9 = (a, tr) ∧ readerStep (inBody cfg0 []) = .next t ∧
      delivered a = [] :=
  ⟨⟨_, _, _, rfl, rfl, by decide⟩, ⟨_, _, _, rfl, rfl, by decide⟩, ⟨_, _, _, rfl, rfl, rfl⟩⟩

theorem witness_TransportDeliversTheStreamOnce :
    (idle cfg0 [.bytes req] []).transport.script ≠ [] ∧
    ∃ a t, Transport.read (idle cfg0 [.bytes req] []).transport 3 = (a, t) :=
  ⟨by decide, ⟨_, _, rfl⟩⟩

/-- A candidate of 4 bytes from HDR (N12) and one of 13 from BODY (N1). -/
theorem witness_CandidatesHaveTheDecodedLength :
    (ReaderInv (inHeader cfgB [.bytes [0x04, 0x04, 0x81]]) ∧
      ∃ t, readerStep (inHeader cfgB [.bytes [0x04, 0x04, 0x81]]) = .next t ∧
        t.replies = [] ++ [⟨0x03, .ok, .bytes [0x55, 0x04, 0x04, 0x81], .nothing⟩]) ∧
    (ReaderInv (inBody cfgB [.bytes (req.drop 4)]) ∧
      ∃ t, readerStep (inBody cfgB [.bytes (req.drop 4)]) = .next t ∧
        t.replies = [] ++ [⟨0x03, .ok, .bytes req, .nothing⟩]) :=
  ⟨⟨witness_inv_header _, _, rfl, rfl⟩, witness_inv_body _, _, rfl, rfl⟩

theorem witness_ReceivedFramesAreValidOrFailAChecksum :
    (∃ t, readerStep (inHeader cfgB [.bytes [0x04, 0x04, 0x81]]) = .next t ∧
      t.replies = [] ++ [⟨0x03, .ok, .bytes [0x55, 0x04, 0x04, 0x81], .nothing⟩]) ∧
    ([0x55, 0x04, 0x04, 0x81] : List Byte).length < 13 ∧ 13 ≤ req.length :=
  ⟨⟨_, rfl, rfl⟩, by decide, by decide⟩

/-- A strict short answer (N31), and a full one. -/
theorem witness_ConsumedBytesAreAccountedFor :
    (ReaderInv (inBody cfgB [.bytes [0x0a, 0x06]]) ∧ ∃ t, readerStep (inBody cfgB [.bytes [0x0a, 0x06]]) = .next t ∧
      t.replies = [] ++ [⟨0x03, .shortRead, .empty, .delivered 2 9⟩]) ∧
    (ReaderInv (inBody cfgB [.bytes (req.drop 4)]) ∧ ∃ t, readerStep (inBody cfgB [.bytes (req.drop 4)]) = .next t ∧
      ¬ ∃ n r, t.replies = [] ++ [⟨0x03, ⟨.shortRead, .empty, .delivered n r⟩⟩]) := by
  refine ⟨⟨witness_inv_body _, _, rfl, rfl⟩, witness_inv_body _, _, rfl, ?_⟩
  rintro ⟨n, r, h⟩
  injection h with h
  injection h with _ h
  injection h with h
  cases h

theorem witness_AbortAndStepInEitherOrder :
    (inBody cfg0 []).cfg.legal = true ∧ (inBody cfg0 []).rState ≠ .idle ∧
    ({ inBody cfg0 [] with schedule := [.command ⟨0x04, []⟩, .readerTurn] } : State).schedule =
      [.command ⟨0x04, []⟩, .readerTurn] ∧
    ∃ u, readerStep { inBody cfg0 [.bytes (req.drop 4)] with schedule := [.command ⟨0x04, []⟩] } = .next u :=
  ⟨by decide, by decide, by decide, ⟨_, rfl⟩⟩

theorem witness_CallsEndUnderAFiniteScanBound :
    ReaderInv (scanning cfgB []) ∧ Busy (scanning cfgB []) ∧ (scanning cfgB []).schedule = [] ∧
    (scanning cfgB []).cfg.scanBound = some 3 :=
  ⟨witness_inv_scan _, by decide⟩

theorem witness_EndlessNoiseKeepsTheCallScanning :
    let s : State := { scanning cfg0 [] with transport := ⟨[], .endless 0x54, 0, 0⟩ }
    s.cfg.legal = true ∧ s.cfg.scanBound = none ∧ s.schedule = [] ∧ s.rState = .scan ∧ s.transport.script = [] ∧
    s.transport.tail = .endless 0x54 ∧ 0x54 ≠ s.cfg.magic := by decide

theorem witness_SilentTransportsEndInTimeout :
    let s := idle cfg0 [] [.command ⟨0x03, []⟩]
    s.cfg.legal = true ∧ s.rState = .idle ∧ s.schedule = [.command ⟨0x03, []⟩] ∧ s.transport.script = [] ∧
    s.transport.tail = .silent := by decide

/-- Two bytes of garbage under the bound 3 (one more would reach it), then `REQ` and three bytes of what follows. -/
theorem witness_CleanGarbageThenFrameYieldsTheFrame :
    let s := idle cfgB [.bytes ([0x00, 0xff] ++ req ++ [0x11, 0x55, 0x00]), .terr] [.command ⟨0x03, []⟩]
    s.cfg.legal = true ∧ s.rState = .idle ∧ s.schedule = [.command ⟨0x03, []⟩] ∧
    s.transport.script = .bytes ([0x00, 0xff] ++ req ++ [0x11, 0x55, 0x00]) :: [.terr] ∧
    (∀ b ∈ ([0x00, 0xff] : List Byte), b ≠ s.cfg.magic) ∧ s.cfg.scanBound = some 3 ∧
    ([0x00, 0xff] : List Byte).length < 3 ∧ Valid s.cfg req := by decide +kernel

/-! The whole machine -/

theorem witness_EveryStepKeepsTheInvariants :
    (ReaderInv (idle cfgB [] [.command ⟨0x03, []⟩]) ∧ ∃ t, step (idle cfgB [] [.command ⟨0x03, []⟩]) = .next t) ∧
    (ReaderInv (scanning cfgB [.bytes [0x55]]) ∧ ∃ t, step (scanning cfgB [.bytes [0x55]]) = .next t) :=
  ⟨⟨witness_inv_idle _ _, _, rfl⟩, witness_inv_scan _, _, rfl⟩

/-- Each of the four outcomes, from a state that meets the invariants. -/
theorem witness_OnlyRefusedEventsStopTheMachine :
    (ReaderInv (inBody cfgB []) ∧ ∃ t, step (inBody cfgB []) = .next t) ∧
    (ReaderInv (idle cfgB [] [.command ⟨0x02, []⟩]) ∧
      step (idle cfgB [] [.command ⟨0x02, []⟩]) = .refused .operandTypes) ∧
    step (idle cfgB [] [.reset (Config.dumlDefault none 0)]) = .refused .illegalConfiguration ∧
    step (idle cfgB [] [.configure cfgA]) = .refused .configurationChange :=
  ⟨⟨witness_inv_body _, _, rfl⟩, ⟨witness_inv_idle _ _, rfl⟩, rfl, rfl⟩

/-- A reset inside a call, and a step that ends one. -/
theorem witness_EveryCallGetsExactlyOneResponse :
    (∃ t, step { inBody cfg0 [] with schedule := [.reset cfg0] } = .next t) ∧
    ∃ t, step (inBody cfg0 [.terr]) = .next t ∧ t.rState = .idle ∧ ¬ ∃ c es, (inBody cfg0 [.terr]).schedule = .reset c :: es :=
  ⟨⟨_, rfl⟩, _, rfl, rfl, by rintro ⟨c, es, h⟩; cases h⟩

theorem witness_EveryStepKeepsResponsesShaped :
    ∃ t, step { idle cfg0 [] [.command ⟨0x04, []⟩] with replies := [⟨0x04, .ok, .empty, .nothing⟩] } = .next t ∧
      ∀ r ∈ ([⟨0x04, .ok, .empty, .nothing⟩] : List Reply), ReplyShaped r :=
  ⟨_, rfl, by simp [ReplyShaped]⟩

/-- Two statuses with one code are the same status. -/
theorem witness_StatusCodesAreTheTables : Status.code .busy = Status.code .busy ∧ Status.code .busy = 0xF1 := by decide

end Sys2Proof.Tests
end

section
/-! Proofs: encoding (30_encoding). -/
namespace Sys2Proof.Machine

open Sys2Proof.Safety

/-- A code that is none of the four assigned ones is reported as reserved, whatever the operands (30_encoding R74): the
converse of `decode_reserved`. -/
theorem decode_eq_reservedCode {op : Byte} (operands : List Operand)
    (h1 : op ≠ 0x01) (h2 : op ≠ 0x02) (h3 : op ≠ 0x03) (h4 : op ≠ 0x04) :
    decode ⟨op, operands⟩ = .error (.reservedCode op) := by
  rw [decode, if_neg h1, if_neg h2, if_neg h3, if_neg h4]

/-- Running a command that decodes as reserved delivers one ILLEGAL_COMMAND response and does nothing else. -/
theorem runCommand_of_reservedCode {c : Command} {op : Byte} (s : State)
    (h : decode c = .error (.reservedCode op)) :
    runCommand c s = .next (told s op .illegalCommand .empty .nothing) := by
  rw [runCommand, h]
  rfl

/-- Settles O3: the step runs the scheduled command, which decodes as reserved in every reader state. -/
theorem reservedCodesAnswerIllegalCommand : Obligations.ReservedCodesAnswerIllegalCommand := by
  intro s op operands es hlegal hsched h1 h2 h3 h4
  refine ⟨?_, rfl⟩
  calc step s = runCommand ⟨op, operands⟩ (s.withSchedule es) := step_event hlegal hsched
    _ = .next (told (s.withSchedule es) op .illegalCommand .empty .nothing) :=
      runCommand_of_reservedCode _ (decode_eq_reservedCode operands h1 h2 h3 h4)

end Sys2Proof.Machine
end

section
/-! Proofs: the checksum tables (40_checksums). -/
namespace Sys2Proof.Machine

open Sys2Proof.Safety

/-- Settles O22. The computed and the printed table are closed data: the kernel shifts each of the 256 indices eight
times by the polynomial `0x8C` and compares the result with its printed entry. -/
theorem headerTableHasThePrintedEntries : Obligations.HeaderTableHasThePrintedEntries := by
  unfold Obligations.HeaderTableHasThePrintedEntries
  decide +kernel

/-- Settles O23. As for `T8`, with the polynomial `0x8408` and the two printed halves read as one table of 32 rows. -/
theorem frameTableHasThePrintedEntries : Obligations.FrameTableHasThePrintedEntries := by
  unfold Obligations.FrameTableHasThePrintedEntries
  decide +kernel

end Sys2Proof.Machine
end

section
/-! Proofs: the meaning of BUILD (41_codec R97). -/
namespace Sys2Proof.Machine

open Sys2Proof.Safety

theorem slice_append_left {s t : List Byte} {i j : Nat} (h : j < s.length) : slice (s ++ t) i j = slice s i j := by
  rw [slice, slice, List.drop_append, List.take_append_of_le_length]
  rw [List.length_drop]
  omega

theorem rd16_append_left {s t : List Byte} {i : Nat} (h : i + 1 < s.length) : rd16 (s ++ t) i = rd16 s i := by
  rw [rd16, rd16, byteAt_append_left h, byteAt_append_left (Nat.lt_of_succ_lt h)]

/-- A value written low byte first at the end of a sequence reads back. -/
theorem rd16_append_le16 {s : List Byte} {i : Nat} (v : Half) (h : i = s.length) : rd16 (s ++ le16 v) i = v := by
  subst h
  rw [rd16, byteAt_append_right le_rfl, byteAt_append_right (Nat.le_add_right _ 1), Nat.sub_self,
    Nat.add_sub_cancel_left]
  exact half_bytes v

/-- The eleven bytes in front of the payload of a frame with `n` payload bytes (41_codec R97, 30_encoding R64). -/
def frameHead (cfg : Config) (seq : Half) (src dst ctype cset cid : Byte) (n : Nat) : List Byte :=
  let start := cfg.magic :: le16 (lengthWord cfg.version (overhead + n))
  start ++ [hdrck cfg start] ++ [src, dst] ++ le16 seq ++ [ctype, cset, cid]

section Frame

variable {cfg : Config} {seq : Half} {src dst ctype cset cid : Byte} {payload : List Byte} {n : Nat}

@[simp] theorem frameHead_length : (frameHead cfg seq src dst ctype cset cid n).length = 11 := rfl

theorem rd16_frameHead_length :
    rd16 (frameHead cfg seq src dst ctype cset cid n) 1 = lengthWord cfg.version (overhead + n) :=
  half_bytes _

theorem rd16_frameHead_sequence : rd16 (frameHead cfg seq src dst ctype cset cid n) 6 = seq :=
  half_bytes _

/-- A frame is its head, its payload and the checksum of both. -/
theorem buildFrame_eq :
    buildFrame cfg seq src dst ctype cset cid payload =
      frameHead cfg seq src dst ctype cset cid payload.length ++ payload ++
        le16 (frmck cfg (frameHead cfg seq src dst ctype cset cid payload.length ++ payload)) := rfl

@[simp] theorem buildFrame_length :
    (buildFrame cfg seq src dst ctype cset cid payload).length = 13 + payload.length := by
  rw [buildFrame_eq, List.length_append, List.length_append, frameHead_length, le16_length]
  omega

/-- The fields in front of the payload are read from the head. -/
theorem byteAt_buildFrame {i : Nat} (h : i < 11) :
    byteAt (buildFrame cfg seq src dst ctype cset cid payload) i =
      byteAt (frameHead cfg seq src dst ctype cset cid payload.length) i := by
  rw [buildFrame_eq, List.append_assoc, byteAt_append_left h]

theorem rd16_buildFrame {i : Nat} (h : i + 1 < 11) :
    rd16 (buildFrame cfg seq src dst ctype cset cid payload) i =
      rd16 (frameHead cfg seq src dst ctype cset cid payload.length) i := by
  rw [buildFrame_eq, List.append_assoc, rd16_append_left h]

theorem slice_buildFrame {i j : Nat} (h : j < 11) :
    slice (buildFrame cfg seq src dst ctype cset cid payload) i j =
      slice (frameHead cfg seq src dst ctype cset cid payload.length) i j := by
  rw [buildFrame_eq, List.append_assoc, slice_append_left h]

/-- The header checksum covers the magic byte and the length word. -/
theorem headerChecksum_buildFrame :
    byteAt (buildFrame cfg seq src dst ctype cset cid payload) 3 =
      hdrck cfg (slice (buildFrame cfg seq src dst ctype cset cid payload) 0 2) := by
  rw [byteAt_buildFrame (by omega), slice_buildFrame (by omega)]
  rfl

theorem payload_buildFrame :
    slice (buildFrame cfg seq src dst ctype cset cid payload) 11 (13 + payload.length - 3) = payload := by
  rw [buildFrame_eq]
  apply slice_middle
  · rfl
  · omega

/-- The frame checksum covers every byte in front of it. -/
theorem frameChecksum_buildFrame :
    rd16 (buildFrame cfg seq src dst ctype cset cid payload) (13 + payload.length - 2) =
      frmck cfg (slice (buildFrame cfg seq src dst ctype cset cid payload) 0 (13 + payload.length - 3)) := by
  have hlen : (frameHead cfg seq src dst ctype cset cid payload.length ++ payload).length = 11 + payload.length := by
    rw [List.length_append, frameHead_length]
  rw [buildFrame_eq, rd16_append_le16 _ (by omega), slice_append (by omega)]

end Frame

section Build

variable {s : State} {seq : Half} {src dst ctype cset cid : Byte} {payload : List Byte}

/-- BUILD of a payload that fits answers the frame. -/
theorem exec_build_ok (h : payload.length ≤ 1010) :
    exec (.build seq src dst ctype cset cid payload) s =
      .next (told s 0x01 .ok (.bytes (buildFrame s.cfg seq src dst ctype cset cid payload)) .nothing) := by
  have hfit : ¬ overhead + payload.length > maxFrame := by
    simp only [overhead, maxFrame]
    omega
  rw [exec, execBuild, buildResponse, if_neg hfit]
  rfl

/-- BUILD of a longer payload answers the length the frame would have had, not truncated (41_codec R98). -/
theorem exec_build_tooLong (h : 1010 < payload.length) :
    exec (.build seq src dst ctype cset cid payload) s =
      .next (told s 0x01 .tooLong .empty (.computedLength (13 + payload.length))) := by
  have hlong : overhead + payload.length > maxFrame := by
    simp only [overhead, maxFrame]
    omega
  rw [exec, execBuild, buildResponse, if_pos hlong]
  rfl

end Build

/-- The two open parameters of `DUML_DEFAULT` play no part in BUILD. -/
theorem buildFrame_dumlDefault (sb : Option Nat) (rb : Nat) (seq : Half) (src dst ctype cset cid : Byte)
    (payload : List Byte) :
    buildFrame (Config.dumlDefault sb rb) seq src dst ctype cset cid payload =
      buildFrame (Config.dumlDefault none 3) seq src dst ctype cset cid payload := rfl

/-- The worked example of 41_codec R97. -/
theorem buildFrame_dumlDefault_example (sb : Option Nat) (rb : Nat) :
    buildFrame (Config.dumlDefault sb rb) 0x34eb 0x0a 0x06 0x40 0x06 0x01 [] =
      [0x55, 0x0d, 0x04, 0x33, 0x0a, 0x06, 0xeb, 0x34, 0x40, 0x06, 0x01, 0x74, 0x24] := by
  rw [buildFrame_dumlDefault]
  decide +kernel

/-- Settles O12: the frame is its head, its payload and its checksum, and each field lies in one part. -/
theorem buildSerialisesItsOperands : Obligations.BuildSerialisesItsOperands := by
  refine ⟨?fits, fun s seq src dst ctype cset cid payload h => exec_build_tooLong h, ?workedExample⟩
  case fits =>
    intro s seq src dst ctype cset cid payload h
    refine ⟨buildFrame s.cfg seq src dst ctype cset cid payload, exec_build_ok h, buildFrame_length,
      byteAt_buildFrame (by decide), ?lengthWord, headerChecksum_buildFrame,
      byteAt_buildFrame (by decide), byteAt_buildFrame (by decide), ?sequence,
      byteAt_buildFrame (by decide), byteAt_buildFrame (by decide), byteAt_buildFrame (by decide),
      ?payload, ?checksum⟩
    case lengthWord => exact (rd16_buildFrame (by decide)).trans rd16_frameHead_length
    case sequence => exact (rd16_buildFrame (by decide)).trans rd16_frameHead_sequence
    case payload => rw [buildFrame_length, payload_buildFrame]
    case checksum => rw [buildFrame_length, frameChecksum_buildFrame]
  case workedExample =>
    intro s sb rb hcfg
    rw [exec_build_ok (Nat.zero_le _), hcfg, buildFrame_dumlDefault_example]

end Sys2Proof.Machine
end

section
/-! Proofs: the meaning of PARSE (41_codec R103). -/
namespace Sys2Proof.Machine

open Sys2Proof.Safety

section Checks

variable {cfg : Config} {s : List Byte}

theorem parseResponse_tooShort (hshort : s.length < overhead) :
    parseResponse cfg s = .failure .tooShort (.inputLength s.length) := by
  rw [parseResponse, if_pos hshort]

variable (hlong : overhead ≤ s.length)
include hlong

theorem parseResponse_badMagic (hmagic : byteAt s 0 ≠ cfg.magic) :
    parseResponse cfg s = .failure .badMagic (.byteFound (byteAt s 0)) := by
  rw [parseResponse, if_neg hlong.not_gt, if_pos hmagic]

variable (hmagic : byteAt s 0 = cfg.magic)
include hmagic

theorem parseResponse_lengthMismatch (hlen : (decodeLen (byteAt s 1) (byteAt s 2)).toNat ≠ s.length) :
    parseResponse cfg s =
      .failure .lengthMismatch (.lengths (decodeLen (byteAt s 1) (byteAt s 2)).toNat s.length) := by
  rw [parseResponse, if_neg hlong.not_gt, if_neg (not_not_intro hmagic), if_pos hlen]

variable (hlen : (decodeLen (byteAt s 1) (byteAt s 2)).toNat = s.length)
include hlen

theorem parseResponse_headerChecksum (hhdr : byteAt s 3 ≠ hdrck cfg (slice s 0 2)) :
    parseResponse cfg s = .failure .headerChecksum (.storedHeader (byteAt s 3)) := by
  rw [parseResponse, if_neg hlong.not_gt, if_neg (not_not_intro hmagic), if_neg (not_not_intro hlen), if_pos hhdr]

variable (hhdr : byteAt s 3 = hdrck cfg (slice s 0 2))
include hhdr

theorem parseResponse_frameChecksum (hfrm : rd16 s (s.length - 2) ≠ frmck cfg (slice s 0 (s.length - 3))) :
    parseResponse cfg s = .failure .frameChecksum (.storedFrame (rd16 s (s.length - 2))) := by
  rw [parseResponse, if_neg hlong.not_gt, if_neg (not_not_intro hmagic), if_neg (not_not_intro hlen),
    if_neg (not_not_intro hhdr), hlen, if_pos hfrm]

end Checks

/-- An input that passes the five checks is answered with its record. -/
theorem parseResponse_of_valid {cfg : Config} {s : List Byte} (h : Valid cfg s) :
    parseResponse cfg s = .success (.frame (frameOf s)) := by
  obtain ⟨hlong, hmagic, hlen, hhdr, hfrm⟩ := h
  rw [parseResponse, if_neg hlong.not_gt, if_neg (not_not_intro hmagic), if_neg (not_not_intro hlen),
    if_neg (not_not_intro hhdr), hlen, if_neg (not_not_intro hfrm)]

/-- PARSE delivers the response its checks give. -/
theorem exec_parse {st : State} {s : List Byte} {r : Response} (h : parseResponse st.cfg s = r) :
    exec (.parse s) st = .next (told st 0x02 r.status r.data r.info) := by
  rw [exec, execParse, h]
  rfl

/-- The two open parameters of `DUML_DEFAULT` play no part in what is a valid frame. -/
theorem valid_dumlDefault (sb : Option Nat) (rb : Nat) (f : List Byte) :
    Valid (Config.dumlDefault sb rb) f ↔ Valid (Config.dumlDefault none 3) f := Iff.rfl

/-- The worked example of 41_codec R103 is a frame. -/
theorem valid_dumlDefault_example (sb : Option Nat) (rb : Nat) :
    Valid (Config.dumlDefault sb rb)
      [0x55, 0x0d, 0x04, 0x33, 0x0a, 0x06, 0xeb, 0x34, 0x40, 0x06, 0x01, 0x74, 0x24] := by
  rw [valid_dumlDefault]
  decide +kernel

/-- Settles O14: the clauses are the branches of the checks, in their order. -/
theorem parseReportsFirstFailureOrTheFields : Obligations.ParseReportsFirstFailureOrTheFields := by
  refine ⟨?workedExample, ?checks⟩
  case workedExample =>
    intro st sb rb hcfg
    exact exec_parse (parseResponse_of_valid (hcfg ▸ valid_dumlDefault_example sb rb))
  case checks =>
    rintro st s len rfl
    refine ⟨fun hshort => exec_parse (parseResponse_tooShort hshort),
      fun hlong hmagic => exec_parse (parseResponse_badMagic hlong hmagic),
      fun hlong hmagic hlen => exec_parse (parseResponse_lengthMismatch hlong hmagic hlen),
      fun hlong hmagic hlen hhdr => exec_parse (parseResponse_headerChecksum hlong hmagic hlen hhdr),
      ?frameChecksum, ?valid⟩
    case frameChecksum =>
      intro hlong hmagic hlen hhdr hfrm
      rw [hlen] at hfrm ⊢
      exact exec_parse (parseResponse_frameChecksum hlong hmagic hlen hhdr hfrm)
    case valid =>
      intro hlong hmagic hlen hhdr hfrm
      rw [hlen] at hfrm ⊢
      exact exec_parse (parseResponse_of_valid ⟨hlong, hmagic, hlen, hhdr, hfrm⟩)

end Sys2Proof.Machine
end

section
/-! Proofs: what a reader step does with each answer (42_reader R115 to R122). -/
namespace Sys2Proof.Machine

open Sys2Proof.Safety

section Buffer

variable {m : Memory} {n : Nat} {bs : List Byte}

/-- Bytes stored right behind the bytes held leave every byte up to their end holding a value. -/
theorem Memory.isSome_read_writeBytes (h : ∀ i < n, (Memory.read m i).isSome = true) :
    ∀ i < n + bs.length, (Memory.read (Memory.writeBytes m n bs) i).isSome = true := by
  intro i hi
  rw [Memory.read_writeBytes]
  split
  · simp only [isSome_getElem?]
    omega
  · exact h i (by omega)

/-- Two neighbouring bytes that hold values are loaded in order. -/
theorem Memory.load_pair {i : Nat} {b1 b2 : Byte} (hi : i + 2 ≤ maxFrame) (h1 : Memory.read m i = some b1)
    (h2 : Memory.read m (i + 1) = some b2) : Memory.load m i 2 = .ok [b1, b2] := by
  refine Memory.load_of_read (bs := [b1, b2]) hi fun k hk => ?_
  match k, hk with
  | 0, _ => exact h1
  | 1, _ => exact h2

end Buffer

section Requests

variable {s : State}

theorem need_scan (hs : s.rState = .scan) : need s = 1 := by
  simp only [need, hs]

theorem need_header (hs : s.rState = .hdr) : need s = 4 - s.rCount := by
  simp only [need, hs, hdrLen]

theorem need_body (hs : s.rState = .body) : need s = s.rLen.toNat - s.rCount := by
  simp only [need, hs]

/-- The bytes a header or body step requests end inside the buffer: the phase ends at index 4 or at `R_LEN`, which has
10 bits. -/
theorem rCount_add_need_le (hs : s.rState = .hdr ∨ s.rState = .body) (hpos : 1 ≤ need s) :
    s.rCount + need s ≤ maxFrame := by
  have hlen : s.rLen.toNat < 1024 := s.rLen.isLt
  rw [maxFrame]
  rcases hs with hs | hs
  · rw [need_header hs] at hpos ⊢
    omega
  · rw [need_body hs] at hpos ⊢
    omega

/-- Bytes kept in HDR or BODY shorten the next request by their number. -/
theorem need_advance (tr : Transport) (m : Memory) (k : Nat) (hs : s.rState = .hdr ∨ s.rState = .body) :
    need { s with transport := tr, rRetry := 0, rBuf := m, rCount := s.rCount + k } = need s - k := by
  rcases hs with hs | hs <;> simp only [need, hs, Nat.sub_add_eq]

/-- A busy reader has a byte to ask for (10_state R24, 42_reader R116). -/
theorem one_le_need (hinv : ReaderInv s) (hbusy : Busy s) : 1 ≤ need s := by
  cases hs : s.rState with
  | idle => exact absurd hs hbusy
  | scan => rw [need_scan hs]
  | hdr =>
    obtain ⟨-, hcount, -⟩ := hinv.hdr hs
    rw [need_header hs]
    omega
  | body =>
    obtain ⟨-, hcount, -⟩ := hinv.body hs
    rw [need_body hs]
    omega

end Requests

section Answers

variable {s : State} {b : List Byte} {n : Nat}

/-- A reader step hands the answer to its request on (42_reader R115, R116). -/
theorem readerStep_eq_takeAnswer {a : Answer} {tr : Transport} (hneed : need s = n) (hpos : 1 ≤ n)
    (hread : Transport.read s.transport n = (a, tr)) :
    readerStep s = takeAnswer a n { s with transport := tr } := by
  subst hneed
  rw [readerStep, if_neg (Nat.one_le_iff_ne_zero.1 hpos), hread]

theorem readerStep_scan {x : Byte} {tr : Transport} (hs : s.rState = .scan)
    (hread : Transport.read s.transport 1 = (.bytes [x], tr)) :
    readerStep s = scanByte x { s with transport := tr } := by
  rw [readerStep_eq_takeAnswer (need_scan hs) le_rfl hread]
  simp only [takeAnswer, hs]

/-- The answer that completes the link header (42_reader R118). -/
theorem readerStep_header_full {tr : Transport} (hs : s.rState = .hdr) (hne : 1 ≤ b.length)
    (hlen : b.length = 4 - s.rCount) (hfit : s.rCount + b.length ≤ maxFrame)
    (hread : Transport.read s.transport (4 - s.rCount) = (.bytes b, tr)) :
    readerStep s =
      decodeLength { s with transport := tr, rBuf := Memory.writeBytes s.rBuf s.rCount b, rCount := 4,
                            rRetry := 0 } := by
  rw [readerStep_eq_takeAnswer (need_header hs) (hlen ▸ hne) hread]
  obtain ⟨x, xs, rfl⟩ := List.exists_cons_of_length_pos hne
  simp only [takeAnswer, hs, if_pos hlen, headerFull, Memory.store_eq hfit]

/-- The answer that completes the candidate (42_reader R120). -/
theorem readerStep_body_full {tr : Transport} (hs : s.rState = .body) (hne : 1 ≤ b.length)
    (hlen : b.length = s.rLen.toNat - s.rCount) (hfit : s.rCount + b.length ≤ maxFrame)
    (hread : Transport.read s.transport (s.rLen.toNat - s.rCount) = (.bytes b, tr)) :
    readerStep s =
      deliver s.rLen.toNat { s with transport := tr, rBuf := Memory.writeBytes s.rBuf s.rCount b,
                                    rCount := s.rLen.toNat, rRetry := 0 } := by
  rw [readerStep_eq_takeAnswer (need_body hs) (hlen ▸ hne) hread]
  obtain ⟨x, xs, rfl⟩ := List.exists_cons_of_length_pos hne
  simp only [takeAnswer, hs, if_pos hlen, bodyFull, Memory.store_eq hfit]

/-- A short answer in HDR and in BODY (42_reader R122). -/
theorem readerStep_short {tr : Transport} (hs : s.rState = .hdr ∨ s.rState = .body) (hne : 1 ≤ b.length)
    (hshort : b.length < need s) (hread : Transport.read s.transport (need s) = (.bytes b, tr)) :
    readerStep s = shortAnswer b (need s) { s with transport := tr } := by
  rw [readerStep_eq_takeAnswer rfl (hne.trans hshort.le) hread]
  obtain ⟨x, xs, rfl⟩ := List.exists_cons_of_length_pos hne
  rcases hs with hs | hs <;> simp only [takeAnswer, hs, if_neg hshort.ne]

theorem scanByte_magic {x : Byte} (hx : x = s.cfg.magic) :
    scanByte x s =
      .next { s with rRetry := 0, rBuf := Memory.write s.rBuf 0 x, rCount := 1, rState := .hdr } := by
  have hfit : 0 + [x].length ≤ maxFrame := (by decide : 1 ≤ 1023)
  rw [scanByte, if_pos hx, Memory.store_eq hfit]
  rfl

theorem scanByte_discard {x : Byte} (hx : x ≠ s.cfg.magic) (hbound : s.cfg.scanBound ≠ some (s.rDisc + 1)) :
    scanByte x s = .next { s with rRetry := 0, rDisc := s.rDisc + 1 } := by
  rw [scanByte, if_neg hx]
  exact if_neg hbound

theorem scanByte_noMagic {x : Byte} (hx : x ≠ s.cfg.magic) (hbound : s.cfg.scanBound = some (s.rDisc + 1)) :
    scanByte x s =
      .next (told { s with rRetry := 0, rDisc := s.rDisc + 1, rState := .idle } 0x03 .noMagic .empty
        (.discarded (s.rDisc + 1))) := by
  rw [scanByte, if_neg hx]
  exact if_pos hbound

theorem shortAnswer_strict (hacc : s.cfg.accumulate = false) :
    shortAnswer b n s =
      .next (told { s with rRetry := 0, rState := .idle } 0x03 .shortRead .empty (.delivered b.length n)) := by
  rw [shortAnswer, if_neg (Bool.not_eq_true _ ▸ hacc)]
  rfl

theorem shortAnswer_accumulate (hacc : s.cfg.accumulate = true) (hfit : s.rCount + b.length ≤ maxFrame) :
    shortAnswer b n s =
      .next { s with rRetry := 0, rBuf := Memory.writeBytes s.rBuf s.rCount b,
                     rCount := s.rCount + b.length } := by
  rw [shortAnswer, if_pos hacc, Memory.store_eq hfit]

/-- A candidate whose bytes all hold values is delivered as the buffer holds it (42_reader R114). -/
theorem deliver_of_held {m : Memory} (hm : s.rBuf = m) (hn : n ≤ maxFrame)
    (hheld : ∀ k < n, (Memory.read m k).isSome = true) :
    ∃ cand : List Byte, cand.length = n ∧ (∀ k < n, Memory.read m k = cand[k]?) ∧
      deliver n s = .next (told { s with rState := .idle } 0x03 .ok (.bytes cand) .nothing) := by
  subst hm
  obtain ⟨cand, hload⟩ := Memory.load_eq (m := s.rBuf) (i := 0) (n := n) (by omega) (by simpa using hheld)
  obtain ⟨-, hlen, hread⟩ := Memory.load_ok hload
  refine ⟨cand, hlen, by simpa using hread, ?_⟩
  rw [deliver, hload]
  rfl

end Answers

section LengthDecode

variable {s : State} {b1 b2 : Byte} (hload : Memory.load s.rBuf 1 2 = .ok [b1, b2])
include hload

theorem decodeLength_badLength (hlen : (decodeLen b1 b2).toNat < 4) :
    decodeLength s =
      .next (told { s with rState := .idle } 0x03 .badLength .empty
        (.decodedLength (decodeLen b1 b2).toNat)) := by
  rw [decodeLength, hload]
  exact if_pos hlen

theorem decodeLength_headerOnly (hlen : (decodeLen b1 b2).toNat = 4) :
    decodeLength s = deliver 4 { s with rLen := decodeLen b1 b2 } := by
  rw [decodeLength, hload]
  exact (if_neg hlen.not_lt).trans (if_pos hlen)

theorem decodeLength_bodyStarts (hlen : 4 < (decodeLen b1 b2).toNat) :
    decodeLength s = .next { s with rRetry := 0, rState := .body, rLen := decodeLen b1 b2 } := by
  rw [decodeLength, hload]
  exact (if_neg hlen.not_gt).trans (if_neg hlen.ne')

end LengthDecode

end Sys2Proof.Machine
end

section
/-! Proofs: the statements about one reader step (42_reader R115 to R122). -/
namespace Sys2Proof.Machine

open Sys2Proof.Safety

/-- Settles O31: the step stores the rest of the link header, so that its four bytes hold values, and the three cases are
the branches of the length decode. -/
theorem headerStepDecodesTheLength : Obligations.HeaderStepDecodesTheLength := by
  rintro s b tr m hs hlow hhigh hheld hlen hread rfl
  have hend : s.rCount + b.length = 4 := by omega
  have hfit : s.rCount + b.length ≤ maxFrame := hend.trans_le (by decide : 4 ≤ maxFrame)
  have hfull : ∀ i < 4, (Memory.read (Memory.writeBytes s.rBuf s.rCount b) i).isSome = true :=
    hend ▸ Memory.isSome_read_writeBytes hheld
  obtain ⟨b1, h1⟩ := Option.isSome_iff_exists.1 (hfull 1 (by decide))
  obtain ⟨b2, h2⟩ := Option.isSome_iff_exists.1 (hfull 2 (by decide))
  have hload := Memory.load_pair (by decide : 1 + 2 ≤ maxFrame) h1 h2
  rw [readerStep_header_full hs (by omega) hlen hfit hread]
  refine ⟨b1, b2, h1, h2, decodeLength_badLength hload, ?headerOnly, decodeLength_bodyStarts hload⟩
  case headerOnly =>
    intro hfour
    rw [decodeLength_headerOnly hload hfour]
    exact deliver_of_held rfl (by decide) hfull

/-- Settles O32: the step stores the rest of the body behind the bytes held, so that the whole candidate holds values. -/
theorem bodyStepDeliversTheCandidate : Obligations.BodyStepDeliversTheCandidate := by
  rintro s b tr m hs hcount hheld hlen hread rfl
  have hend : s.rCount + b.length = s.rLen.toNat := by omega
  have hmax : s.rLen.toNat ≤ maxFrame := Nat.le_of_lt_succ s.rLen.isLt
  rw [readerStep_body_full hs (by omega) hlen (hend.trans_le hmax) hread]
  obtain ⟨cand, hcand, hbytes, hdeliver⟩ :=
    deliver_of_held (s := { s with transport := tr, rBuf := Memory.writeBytes s.rBuf s.rCount b,
                                   rCount := s.rLen.toNat, rRetry := 0 })
      rfl hmax (hend ▸ Memory.isSome_read_writeBytes hheld)
  exact ⟨cand, 0, hcand, hbytes, hdeliver⟩

/-- Settles O34: a short answer takes the branch of `P_ACCUMULATE`, and the bytes kept fit the buffer. -/
theorem shortAnswersFailOrAccumulate : Obligations.ShortAnswersFailOrAccumulate := by
  intro s b tr hs hne hshort hread
  have hpos : 1 ≤ need s := hne.trans hshort.le
  have hfit : s.rCount + b.length ≤ maxFrame :=
    (Nat.add_le_add_left hshort.le _).trans (rCount_add_need_le hs hpos)
  rw [readerStep_short hs hne hshort hread]
  exact ⟨fun hacc => ⟨0, shortAnswer_strict hacc⟩,
    fun hacc => ⟨_, shortAnswer_accumulate hacc hfit, rfl, need_advance tr _ _ hs⟩⟩

/-- Settles O35: under the invariants each phase has a byte left to request, and `TErr` consumes nothing. -/
theorem transportErrorsEndTheCall : Obligations.TransportErrorsEndTheCall :=
  ⟨fun _ => one_le_need, fun _ _ hpos hread =>
    ⟨readerStep_eq_takeAnswer rfl hpos hread, Transport.read_terr_pos hread⟩⟩

/-- Settles O30: the three cases are the branches on the byte and the scan bound. -/
theorem scanStepFindsMagicOrDiscards : Obligations.ScanStepFindsMagicOrDiscards := by
  intro s b tr hs hread
  rw [readerStep_scan hs hread]
  exact ⟨fun hx => scanByte_magic hx, fun hx hbound => scanByte_discard hx hbound,
    fun hx hbound => scanByte_noMagic hx hbound⟩

end Sys2Proof.Machine
end

section
/-! Proofs: which commands are open (60_exceptions R144). -/
namespace Sys2Proof.Machine

section ReaderCommands

variable {s : State}

/-- NEXT_FRAME to an idle reader starts the call (42_reader R113). -/
theorem exec_nextFrame_idle (hidle : s.rState = .idle) : exec .nextFrame s = .next s.startCall := by
  rw [exec, execNextFrame, if_pos hidle]

/-- NEXT_FRAME during a call is not blocked: it answers BUSY (42_reader R113). -/
theorem exec_nextFrame_busy (hbusy : s.rState ≠ .idle) :
    exec .nextFrame s = .next (s.reply 0x03 (.failure .busy .nothing)) := by
  rw [exec, execNextFrame, if_neg hbusy]

/-- ABORT of an idle reader answers OK (42_reader R125). -/
theorem exec_abort_idle (hidle : s.rState = .idle) :
    exec .abort s = .next (s.reply 0x04 (.success .empty)) := by
  rw [exec, execAbort, if_pos hidle]

/-- ABORT during a call ends the call with ABORTED and then answers OK (42_reader R125). -/
theorem exec_abort_busy (hbusy : s.rState ≠ .idle) :
    exec .abort s = .next ((s.raise .aborted .nothing).reply 0x04 (.success .empty)) := by
  rw [exec, execAbort, if_neg hbusy]

end ReaderCommands

/-- Settles O10: the codec's commands answer without a look at the reader, and the reader's commands answer both an idle
and a busy reader. -/
theorem everyCommandIsOpenInEveryState : Obligations.EveryCommandIsOpenInEveryState := by
  intro i s
  cases i with
  | build seq src dst ctype cset cid payload =>
    exact ⟨s.reply 0x01 (buildResponse s.cfg seq src dst ctype cset cid payload), rfl⟩
  | parse bytes => exact ⟨s.reply 0x02 (parseResponse s.cfg bytes), rfl⟩
  | nextFrame =>
    by_cases hidle : s.rState = .idle
    · exact ⟨_, exec_nextFrame_idle hidle⟩
    · exact ⟨_, exec_nextFrame_busy hidle⟩
  | abort =>
    by_cases hidle : s.rState = .idle
    · exact ⟨_, exec_abort_idle hidle⟩
    · exact ⟨_, exec_abort_busy hidle⟩

end Sys2Proof.Machine
end

section
/-! Proofs: reset and the configuration (70_reset_and_hazards R156, R164). -/
namespace Sys2Proof.Machine

section Configuration

variable {s t : State}

/-- No command writes the configuration. -/
theorem exec_cfg {i : Instr} (h : exec i s = .next t) : t.cfg = s.cfg := by
  rcases exec_next h with ⟨_, _, _, _, _, _, _, -, rfl⟩ | ⟨_, -, rfl⟩ | ⟨-, -, rfl⟩ | ⟨-, -, rfl⟩ | ⟨-, -, rfl⟩ |
    ⟨-, -, rfl⟩ <;> rfl

theorem runCommand_cfg {c : Command} (h : runCommand c s = .next t) : t.cfg = s.cfg := by
  rcases runCommand_next h with ⟨i, -, hexec⟩ | ⟨op, -, rfl⟩
  · exact exec_cfg hexec
  · rfl

/-- No turn of the reader writes the configuration. -/
theorem readerTurn_cfg (h : readerTurn s = .next t) : t.cfg = s.cfg := by
  rcases readerTurn_next h with ⟨-, rfl⟩ | ⟨-, hstep⟩
  · rfl
  · obtain ⟨-, a, tr, -, hmove⟩ := readerStep_next hstep
    exact hmove.cfg_schedule.1

/-- The one event that writes the configuration is a reset to a legal one; a configure that is not refused leaves it
(R164). -/
theorem runEvent_cfg {e : Event} (h : runEvent e s = .next t) :
    t.cfg = s.cfg ∨ ∃ c, e = .reset c ∧ t.cfg = c ∧ c.legal = true := by
  cases e with
  | command c => exact .inl (runCommand_cfg h)
  | readerTurn => exact .inl (readerTurn_cfg h)
  | reset c =>
    obtain ⟨hlegal, rfl⟩ := resetTo_next h
    exact .inr ⟨c, rfl, rfl, hlegal⟩
  | configure c =>
    obtain ⟨-, rfl⟩ := configure_next h
    exact .inl rfl

end Configuration

/-- A scheduled reset to a legal configuration is carried out in every reader state (R156). -/
theorem step_reset {s : State} {c : Config} {es : List Event} (hcfg : s.cfg.legal = true) (hc : c.legal = true)
    (hsched : s.schedule = .reset c :: es) : step s = .next ((s.withSchedule es).resetBlock c) :=
  (step_event hcfg hsched).trans (if_pos hc)

/-- An idle block with nothing scheduled waits (R156). -/
theorem step_waits {s : State} (hcfg : s.cfg.legal = true) (hsched : s.schedule = []) (hidle : s.rState = .idle) :
    step s = .next s :=
  (step_unscheduled hcfg hsched).trans (if_pos hidle)

/-- Settles O8: the reset answers `State.resetBlock`, an idle state in a legal configuration; and of all that a step can
run, only a reset writes the configuration. -/
theorem resetClearsTheReaderAndFixesTheConfiguration : Obligations.ResetClearsTheReaderAndFixesTheConfiguration := by
  refine ⟨?resets, ?keeps⟩
  case resets =>
    intro s c es hcfg hc hsched
    exact ⟨_, step_reset hcfg hc hsched, rfl, rfl, rfl, rfl, rfl, fun _ => rfl, rfl, rfl, rfl, rfl,
      fun hes => step_waits hc hes rfl⟩
  case keeps =>
    intro s t h
    obtain ⟨-, ⟨-, hturn⟩ | ⟨e, es, hsched, hrun⟩⟩ := step_next h
    · exact .inl (readerTurn_cfg hturn)
    · rcases runEvent_cfg hrun with hkept | ⟨c, rfl, hset, hc⟩
      · exact .inl hkept
      · exact .inr ⟨c, es, hsched, hset, hc⟩

end Sys2Proof.Machine
end

section
/-! Proofs: commands and their binary forms, and the length decode (30_encoding). -/
namespace Sys2Proof.Machine

theorem exists_of_byteKind {o : Operand} (h : o.kind = .byteKind) : ∃ v, o = .byteVal v := by
  cases o with
  | byteVal v => exact ⟨v, rfl⟩
  | halfVal v => cases h
  | bytesVal v => cases h

theorem exists_of_halfKind {o : Operand} (h : o.kind = .halfKind) : ∃ v, o = .halfVal v := by
  cases o with
  | byteVal v => cases h
  | halfVal v => exact ⟨v, rfl⟩
  | bytesVal v => cases h

theorem exists_of_bytesKind {o : Operand} (h : o.kind = .bytesKind) : ∃ v, o = .bytesVal v := by
  cases o with
  | byteVal v => cases h
  | halfVal v => cases h
  | bytesVal v => exact ⟨v, rfl⟩

theorem decode_encode (i : Instr) : decode (encode i) = .ok i := by
  cases i <;> rfl

/-- A record that decodes is the binary form of what it decodes to: each assigned code has one shape of operands. -/
theorem eq_encode_of_decode {c : Command} {i : Instr} (h : decode c = .ok i) : c = encode i := by
  obtain ⟨op, operands⟩ := c
  simp only [decode] at h
  split_ifs at h with hop hop hop hop
  all_goals
    subst hop
    split at h <;> cases h
    rfl

theorem wf_encode (i : Instr) : (encode i).wf = true := by
  cases i with
  | build seq src dst ctype cset cid payload => exact Laws.EncodedWellFormed.build seq src dst ctype cset cid payload
  | parse bytes => exact Laws.EncodedWellFormed.parse bytes
  | nextFrame => exact Laws.EncodedWellFormed.nextFrame
  | abort => exact Laws.EncodedWellFormed.abort

/-- A well-formed record has an assigned code and operands of that code's types, so it is the binary form of a command. -/
theorem exists_encode_of_wf {c : Command} (h : c.wf = true) : ∃ i, c = encode i := by
  obtain ⟨op, operands⟩ := c
  simp only [Command.wf, signature, beq_iff_eq] at h
  split_ifs at h with hop hop hop hop <;> rw [Option.some.injEq, eq_comm] at h <;> subst hop
  · simp only [List.map_eq_cons_iff, List.map_eq_nil_iff] at h
    obtain ⟨_, _, rfl, h1, _, _, rfl, h2, _, _, rfl, h3, _, _, rfl, h4, _, _, rfl, h5, _, _, rfl, h6, _, _, rfl, h7,
      rfl⟩ := h
    obtain ⟨seq, rfl⟩ := exists_of_halfKind h1
    obtain ⟨src, rfl⟩ := exists_of_byteKind h2
    obtain ⟨dst, rfl⟩ := exists_of_byteKind h3
    obtain ⟨ctype, rfl⟩ := exists_of_byteKind h4
    obtain ⟨cset, rfl⟩ := exists_of_byteKind h5
    obtain ⟨cid, rfl⟩ := exists_of_byteKind h6
    obtain ⟨payload, rfl⟩ := exists_of_bytesKind h7
    exact ⟨.build seq src dst ctype cset cid payload, rfl⟩
  · simp only [List.map_eq_cons_iff, List.map_eq_nil_iff] at h
    obtain ⟨_, _, rfl, h1, rfl⟩ := h
    obtain ⟨bytes, rfl⟩ := exists_of_bytesKind h1
    exact ⟨.parse bytes, rfl⟩
  · obtain rfl := List.map_eq_nil_iff.1 h
    exact ⟨.nextFrame, rfl⟩
  · obtain rfl := List.map_eq_nil_iff.1 h
    exact ⟨.abort, rfl⟩

/-- Settles O2: decoding undoes encoding, a record that decodes is an encoding, and the well-formed records are the
encodings. -/
theorem decodingInvertsEncoding : Obligations.DecodingInvertsEncoding := by
  refine ⟨decode_encode, fun _ _ => eq_encode_of_decode, fun c => ⟨fun h => ?_, ?_⟩⟩
  · obtain ⟨i, rfl⟩ := exists_encode_of_wf h
    exact ⟨i, decode_encode i⟩
  · rintro ⟨i, h⟩
    rw [eq_encode_of_decode h]
    exact wf_encode i

/-- Settles O1: each clause is the decoding of a command's binary form. -/
theorem tableCodesDecodeToTheirCommands : Obligations.TableCodesDecodeToTheirCommands :=
  ⟨fun seq src dst ctype cset cid payload => decode_encode (.build seq src dst ctype cset cid payload),
    fun bytes => decode_encode (.parse bytes), decode_encode .nextFrame, decode_encode .abort⟩

/-- The 16-bit value of two bytes in numbers (20_memory R53). -/
theorem half_toNat (lo hi : Byte) : (half lo hi).toNat = lo.toNat + 256 * hi.toNat := by
  have hlo := lo.isLt
  have hhi := hi.isLt
  rw [half, BitVec.toNat_or, BitVec.toNat_shiftLeft, BitVec.toNat_setWidth, BitVec.toNat_setWidth,
    Nat.mod_eq_of_lt (by omega : lo.toNat < 2 ^ 16), Nat.mod_eq_of_lt (by omega : hi.toNat < 2 ^ 16),
    Nat.shiftLeft_eq, Nat.mod_eq_of_lt (by omega : hi.toNat * 2 ^ 8 < 2 ^ 16), Nat.lor_comm,
    Nat.mul_comm, ← Nat.two_pow_add_eq_or_of_lt hlo, Nat.add_comm]

theorem and_three_toNat (b : Byte) : (b &&& 0x03).toNat = b.toNat % 4 :=
  (BitVec.toNat_and ..).trans (Nat.and_two_pow_sub_one_eq_mod b.toNat 2)

/-- The decoded length in numbers (30_encoding R66). -/
theorem decodeLen_toNat (b1 b2 : Byte) : (decodeLen b1 b2).toNat = b1.toNat + 256 * (b2 &&& 0x03).toNat := by
  have h1 := b1.isLt
  rw [decodeLen, BitVec.extractLsb'_toNat, Nat.shiftRight_zero, half_toNat, and_three_toNat]
  omega

theorem decodeLen_le (b1 b2 : Byte) : (decodeLen b1 b2).toNat ≤ maxFrame :=
  Nat.le_of_lt_succ (decodeLen b1 b2).isLt

/-- The decoded length tells the first byte and the low two bits of the second, and depends on nothing else. -/
theorem decodeLen_eq_iff {a b c d : Byte} : decodeLen a b = decodeLen c d ↔ a = c ∧ b &&& 0x03 = d &&& 0x03 := by
  simp only [← BitVec.toNat_inj, decodeLen_toNat]
  have ha := a.isLt
  have hc := c.isLt
  omega

/-- Settles O4: the length decode in numbers, its bound from its 10 bits, and the bits it tells. -/
theorem lengthDecodeIgnoresVersionBits : Obligations.LengthDecodeIgnoresVersionBits :=
  fun b1 b2 => ⟨decodeLen_toNat b1 b2, decodeLen_le b1 b2, fun _ h => decodeLen_eq_iff.2 ⟨rfl, h⟩⟩

end Sys2Proof.Machine
end

section
/-! Proofs: the round trips of BUILD and PARSE, and the frames PARSE accepts (41_codec section 3). -/
namespace Sys2Proof.Machine

open Sys2Proof.Safety

/-! ### A built frame is valid -/

/-- The largest payload fills the largest frame (00_scope R9). -/
theorem overhead_add_le {n : Nat} (h : n ≤ 1010) : overhead + n ≤ maxFrame := by
  simp only [overhead, maxFrame]
  omega

section Frame

variable {cfg : Config} {seq : Half} {src dst ctype cset cid : Byte} {payload : List Byte}

/-- The length a built frame carries is its own, not truncated (41_codec R98). -/
theorem decodeLen_buildFrame (h : payload.length ≤ 1010) :
    (decodeLen (byteAt (buildFrame cfg seq src dst ctype cset cid payload) 1)
      (byteAt (buildFrame cfg seq src dst ctype cset cid payload) 2)).toNat = 13 + payload.length := by
  have hword := (rd16_buildFrame (cfg := cfg) (seq := seq) (src := src) (dst := dst) (ctype := ctype) (cset := cset)
    (cid := cid) (payload := payload) (by decide : 1 + 1 < 11)).trans rd16_frameHead_length
  have := congrArg (fun w : Half => (w.extractLsb' 0 10).toNat) hword
  exact this.trans (lengthWord_length (overhead_add_le h))

theorem versionBits_buildFrame (h : payload.length ≤ 1010) :
    versionBits (byteAt (buildFrame cfg seq src dst ctype cset cid payload) 2) = cfg.version := by
  rw [byteAt_buildFrame (by decide)]
  exact (versionBits_high _).trans (lengthWord_version (overhead_add_le h))

/-- Every frame BUILD answers meets `Valid` (41_codec R98). -/
theorem valid_buildFrame (h : payload.length ≤ 1010) :
    Valid cfg (buildFrame cfg seq src dst ctype cset cid payload) := by
  refine ⟨?_, byteAt_buildFrame (by decide), ?_, headerChecksum_buildFrame, ?_⟩
  · rw [buildFrame_length]
    exact Nat.le_add_right _ _
  · rw [decodeLen_buildFrame h, buildFrame_length]
  · rw [buildFrame_length, frameChecksum_buildFrame]

end Frame

/-- One response more tells its status, data and info. -/
theorem told_inj {s : State} {op : Byte} {e e' : Status} {d d' : Data} {i i' : Info}
    (h : told s op e d i = told s op e' d' i') : e = e' ∧ d = d' ∧ i = i' := by
  simpa [told] using h

/-- Settles O13: an answer OK means the payload fits, and then the frame is the one of `valid_buildFrame`. -/
theorem builtFramesAreValid : Obligations.BuiltFramesAreValid := by
  rintro s t seq src dst ctype cset cid payload f hexec rfl
  by_cases hfit : payload.length ≤ 1010
  case pos =>
    rw [exec_build_ok hfit] at hexec
    obtain ⟨-, hf, -⟩ := told_inj (Host.Outcome.next.inj hexec)
    cases hf
    exact ⟨valid_buildFrame hfit, versionBits_buildFrame hfit, hfit⟩
  case neg =>
    rw [exec_build_tooLong (Nat.lt_of_not_le hfit)] at hexec
    obtain ⟨hstatus, -⟩ := told_inj (Host.Outcome.next.inj hexec)
    cases hstatus

/-- Settles O16: the frame is valid, so PARSE answers its record, whose fields lie where BUILD put them. -/
theorem parseOfBuildReturnsTheOperands : Obligations.ParseOfBuildReturnsTheOperands := by
  intro st st' seq src dst ctype cset cid payload hfit hcfg
  refine ⟨_, _, exec_build_ok hfit, exec_parse (parseResponse_of_valid (hcfg ▸ valid_buildFrame hfit)),
    decodeLen_buildFrame hfit, versionBits_buildFrame hfit, ?sequence, ?source, ?target, ?type, ?set, ?id, ?payload, rfl⟩
  case sequence => exact (rd16_buildFrame (by decide)).trans rd16_frameHead_sequence
  case payload =>
    rw [frameOf, buildFrame_length, payload_buildFrame]
  case source | target | type | set | id =>
    rw [frameOf, byteAt_buildFrame (by decide)]
    rfl

/-! ### A valid frame is the one built of its fields -/

theorem le16_half (a b : Byte) : le16 (half a b) = [a, b] := by
  rw [le16, half_low, half_high]

/-- The last two bytes of a sequence, as they are written. -/
theorem le16_rd16_last {s : List Byte} {i : Nat} (h : i + 2 = s.length) : le16 (rd16 s i) = s.drop i := by
  rw [rd16, le16_half, List.drop_eq_getElem_cons (by omega : i < s.length),
    List.drop_eq_getElem_cons (by omega : i + 1 < s.length), List.drop_of_length_le (by omega)]
  simp only [byteAt]
  rw [List.getD_eq_getElem _ _ (by omega : i < s.length), List.getD_eq_getElem _ _ (by omega : i + 1 < s.length)]

/-- The first eleven bytes of a valid frame are the head made of its fields (41_codec R108). -/
theorem frameHead_frameOf {cfg : Config} {s : List Byte} {n : Nat} (h : Valid cfg s) (hn : overhead + n = s.length)
    (hversion : versionBits (byteAt s 2) = cfg.version) :
    frameHead cfg (frameOf s).sequenceNumber (frameOf s).sourceAddress (frameOf s).targetAddress (frameOf s).commandType
      (frameOf s).commandSet (frameOf s).commandId n = s.take 11 := by
  obtain ⟨hlong, hmagic, hlen, hhdr, -⟩ := h
  have hword : lengthWord cfg.version (overhead + n) = half (byteAt s 1) (byteAt s 2) := by
    rw [hn, ← hlen, ← hversion, lengthWord_eq]
  rw [frameHead, hword, le16_half, ← hmagic]
  match s, hlong with
  | a0 :: a1 :: a2 :: a3 :: a4 :: a5 :: a6 :: a7 :: a8 :: a9 :: a10 :: rest, _ =>
    have hstart : a3 = hdrck cfg [a0, a1, a2] := hhdr
    change [a0, a1, a2] ++ [hdrck cfg [a0, a1, a2]] ++ [a4, a5] ++ le16 (half a6 a7) ++ [a8, a9, a10] = _
    rw [← hstart, le16_half]
    rfl

/-- The payload PARSE reads ends where the checksum starts (41_codec R103). -/
theorem take_append_slice {s : List Byte} {i j : Nat} (h : i ≤ j + 1) : s.take i ++ slice s i j = s.take (j + 1) := by
  rw [slice, ← List.take_add, Nat.add_sub_cancel' h]

theorem length_le_of_valid {cfg : Config} {s : List Byte} (h : Valid cfg s) : s.length ≤ maxFrame := by
  obtain ⟨-, -, hlen, -⟩ := h
  exact hlen ▸ decodeLen_le _ _

/-- A frame is 13 bytes and its payload (00_scope R8). -/
theorem overhead_add_payload_length {s : List Byte} (h : overhead ≤ s.length) :
    overhead + (frameOf s).payload.length = s.length := by
  have hslice : (frameOf s).payload.length = s.length - 3 + 1 - 11 := slice_length (by simp only [overhead] at h; omega)
  simp only [overhead] at h ⊢
  omega

/-- A valid frame of the block's version is what BUILD makes of its fields (41_codec R108). -/
theorem buildFrame_frameOf {cfg : Config} {s : List Byte} (h : Valid cfg s)
    (hversion : versionBits (byteAt s 2) = cfg.version) :
    buildFrame cfg (frameOf s).sequenceNumber (frameOf s).sourceAddress (frameOf s).targetAddress
      (frameOf s).commandType (frameOf s).commandSet (frameOf s).commandId (frameOf s).payload = s := by
  obtain ⟨hlong, -, -, -, hfrm⟩ := id h
  have hhead := frameHead_frameOf h (overhead_add_payload_length hlong) hversion
  simp only [overhead] at hlong
  have hbody : s.take 11 ++ (frameOf s).payload = s.take (s.length - 2) := by
    refine (take_append_slice (by omega)).trans ?_
    congr 1
    omega
  have hcovered : slice s 0 (s.length - 3) = s.take (s.length - 2) := by
    rw [slice, List.drop_zero]
    congr 1
    omega
  rw [buildFrame_eq, hhead, hbody, ← hcovered, ← hfrm, le16_rd16_last (by omega), hcovered, List.take_append_drop]

/-- Settles O17: PARSE answers the record of the frame, and the frame is the one BUILD makes of it. -/
theorem buildOfParsedFieldsReturnsTheFrame : Obligations.BuildOfParsedFieldsReturnsTheFrame := by
  intro st st' s hvalid hversion hcfg
  refine ⟨_, exec_parse (parseResponse_of_valid hvalid), ?_⟩
  have hpayload : (frameOf s).payload.length ≤ 1010 := by
    obtain ⟨hlong, -⟩ := id hvalid
    have hlen := overhead_add_payload_length hlong
    have hmax := length_le_of_valid hvalid
    simp only [overhead, maxFrame] at hlen hmax
    omega
  rw [exec_build_ok hpayload, hcfg, buildFrame_frameOf hvalid hversion]

end Sys2Proof.Machine
end

section
/-! Proofs: what each answer leaves of the reader's registers, the buffer and the transport (20_memory, 42_reader). -/
namespace Sys2Proof.Machine

open Sys2Proof.Safety

/-! ### The transport -/

/-- Every request leaves what follows the script as it is. -/
theorem Transport.read_tail {t t' : Transport} {n : Nat} {a : Answer} (h : Transport.read t n = (a, t')) :
    t'.tail = t.tail := by
  unfold Transport.read at h
  split at h
  · cases h; rfl
  · split at h <;> cases h <;> rfl
  · split at h
    · cases h; rfl
    · cases h; rfl
    · split at h <;> cases h <;> rfl

/-- The bytes delivered are the next ones of the script, and the rest is still to come (20_memory R51). -/
theorem Transport.read_scripted {t t' : Transport} {n : Nat} {a : Answer} (h : Transport.read t n = (a, t'))
    (hs : t.script ≠ []) : delivered a ++ scripted t'.script = scripted t.script := by
  match hscript : t.script with
  | [] => exact absurd hscript hs
  | .terr :: rest =>
    simp only [Transport.read, hscript] at h
    cases h
    rfl
  | .bytes b :: rest =>
    by_cases hb : b.length ≤ n
    · rw [Transport.read_piece t n hscript hb] at h
      cases h
      rfl
    · rw [Transport.read_part t n hscript (Nat.lt_of_not_le hb)] at h
      cases h
      simp only [delivered, scripted]
      rw [← List.append_assoc, List.take_append_drop]

/-- Settles O37: the bound and the position by the kind of the answer, the order by the script's first piece. -/
theorem transportDeliversTheStreamOnce : Obligations.TransportDeliversTheStreamOnce := by
  intro t t' n a h
  have hstream := Transport.read_scripted h
  have htail := Transport.read_tail h
  cases a with
  | terr => exact ⟨Nat.zero_le n, Transport.read_terr_pos h, hstream, htail⟩
  | bytes b => exact ⟨Transport.read_bytes_le h, Transport.read_pos h, hstream, htail⟩

/-! ### Empty answers -/

section Empty

variable {s : State}

theorem emptyAnswer_wait (hr : s.rRetry + 1 ≠ s.cfg.retryBudget) :
    emptyAnswer s = .next { s with rRetry := s.rRetry + 1 } := if_neg hr

theorem emptyAnswer_timeout (hr : s.rRetry + 1 = s.cfg.retryBudget) (hg : s.rCount ≤ phaseStart s.rState) :
    emptyAnswer s =
      .next (told { s with rRetry := s.rRetry + 1, rState := .idle } 0x03 .timeout .empty (.retries (s.rRetry + 1))) :=
  (if_pos hr).trans (if_neg (by omega))

theorem emptyAnswer_held (hr : s.rRetry + 1 = s.cfg.retryBudget) (hg : phaseStart s.rState < s.rCount) :
    emptyAnswer s =
      .next (told { s with rRetry := s.rRetry + 1, rState := .idle } 0x03 .shortRead .empty
        (.held (s.rCount - phaseStart s.rState))) :=
  (if_pos hr).trans (if_pos (by omega))

end Empty

/-! ### All moves at once -/

/-- Any delivered byte restarts the count of empty answers (42_reader R121). -/
theorem ReaderMove.rRetry_of_delivered {a : Answer} {n : Nat} {s t : State} (h : ReaderMove a n s t)
    (hd : delivered a ≠ []) : t.rRetry = 0 := by
  cases h with
  | terr ha | wait ha | held ha | timeout ha =>
    subst ha
    exact absurd rfl hd
  | magic | discard | noMagic | badLength | headerOnly | bodyStarts | candidate | shortStrict | shortKept => rfl

/-- Settles O33: the first part takes the branches of the budget and of the phase, the second holds of every move that
delivers. -/
theorem emptyAnswersSpendTheRetryBudget : Obligations.EmptyAnswersSpendTheRetryBudget := by
  refine ⟨fun s tr hneed hread => ?empty, fun s t b bs tr hread hstep => ?delivers⟩
  case empty =>
    rw [readerStep_eq_takeAnswer rfl (Nat.one_le_iff_ne_zero.2 hneed) hread]
    exact ⟨fun hr => emptyAnswer_wait hr, fun hr hg => emptyAnswer_timeout hr hg, fun hr hg => emptyAnswer_held hr hg⟩
  case delivers =>
    obtain ⟨-, a, tr', hread', hmove⟩ := readerStep_next hstep
    cases hread.symm.trans hread'
    exact hmove.rRetry_of_delivered (by simp [delivered])

/-- A store leaves the bytes outside its place alone. -/
theorem Memory.read_writeBytes_outside {m : Memory} {i j : Nat} {bs : List Byte} (h : ¬ (i ≤ j ∧ j < i + bs.length)) :
    Memory.read (Memory.writeBytes m i bs) j = Memory.read m j := by
  rw [Memory.read_writeBytes, if_neg h]

/-- A move writes no byte of the buffer outside the delivered bytes' place (42_reader R117, R118, R120, R122). -/
theorem ReaderMove.read_outside {a : Answer} {n : Nat} {s t : State} (h : ReaderMove a n s t) {i : Nat}
    (hi : ¬ (storeBase s ≤ i ∧ i < storeBase s + (delivered a).length)) :
    Memory.read t.rBuf i = Memory.read s.rBuf i := by
  cases h with
  | terr | wait | held | timeout | discard | noMagic | shortStrict => rfl
  | magic b bs ha hs hb =>
    subst ha
    simp only [storeBase, hs, delivered, List.length_cons] at hi
    exact Memory.read_writeBytes_outside (bs := [b]) (by simp only [List.length_singleton]; omega)
  | badLength b _ ha _ hs | headerOnly b _ _ ha _ hs | bodyStarts b _ ha _ hs | candidate b _ ha _ hs =>
    subst ha
    simp only [storeBase, hs] at hi
    exact Memory.read_writeBytes_outside hi
  | shortKept b ha _ hs =>
    subst ha
    have hbase : storeBase s = s.rCount := by rcases hs with hs | hs <;> simp only [storeBase, hs]
    exact Memory.read_writeBytes_outside (hbase ▸ hi)

/-- The registers a move keeps (42_reader R115 to R122): all three where nothing is delivered, `R_LEN` outside HDR,
`R_DISC` outside SCAN. -/
theorem ReaderMove.registers_kept {a : Answer} {n : Nat} {s t : State} (h : ReaderMove a n s t) :
    (delivered a = [] → t.rCount = s.rCount ∧ t.rLen = s.rLen ∧ t.rDisc = s.rDisc) ∧
    (s.rState ≠ .hdr → t.rLen = s.rLen) ∧ (s.rState ≠ .scan → t.rDisc = s.rDisc) := by
  cases h with
  | terr | wait | held | timeout => exact ⟨fun _ => ⟨rfl, rfl, rfl⟩, fun _ => rfl, fun _ => rfl⟩
  | magic b bs ha hs | discard b bs ha hs | noMagic b bs ha hs =>
    exact ⟨fun hd => by simp [ha, delivered] at hd, fun _ => rfl, fun hn => absurd hs hn⟩
  | badLength b _ ha hne hs | headerOnly b _ _ ha hne hs | bodyStarts b _ ha hne hs =>
    subst ha
    exact ⟨fun hd => absurd hd hne, fun hn => absurd hs hn, fun _ => rfl⟩
  | candidate b _ ha hne hs | shortStrict b ha hne hs | shortKept b ha hne hs =>
    subst ha
    exact ⟨fun hd => absurd hd hne, fun _ => rfl, fun _ => rfl⟩

/-- A move goes on with the call and delivers no response, or ends the call with one (42_reader R114). -/
theorem ReaderMove.continues_or_ends {a : Answer} {n : Nat} {s t : State} (h : ReaderMove a n s t) :
    ((s.rState ≠ .idle → t.rState ≠ .idle) ∧ t.replies = s.replies) ∨
    (t.rState = .idle ∧ ∃ r, t.replies = s.replies ++ [⟨0x03, r⟩] ∧ r.status ≠ .busy ∧ ReplyShaped ⟨0x03, r⟩) := by
  cases h with
  | wait => exact .inl ⟨id, rfl⟩
  | magic => exact .inl ⟨fun _ => by simp, rfl⟩
  | discard => exact .inl ⟨id, rfl⟩
  | bodyStarts => exact .inl ⟨fun _ => by simp, rfl⟩
  | shortKept => exact .inl ⟨id, rfl⟩
  | terr | held | timeout | noMagic | badLength | shortStrict =>
    exact .inr ⟨rfl, _, rfl, by simp, by simp [ReplyShaped]⟩
  | headerOnly | candidate => exact .inr ⟨rfl, _, rfl, by simp, by simp [ReplyShaped]⟩

/-- Settles O36: each part is one lemma about the moves of a reader step. -/
theorem readerStepLeavesTheRestUnchanged : Obligations.ReaderStepLeavesTheRestUnchanged := by
  intro s t a tr hread hstep
  obtain ⟨-, a', tr', hread', hmove⟩ := readerStep_next hstep
  cases hread.symm.trans hread'
  obtain ⟨hcfg, hschedule, htransport⟩ := hmove.cfg_schedule
  obtain ⟨hnone, hlen, hdisc⟩ := hmove.registers_kept
  refine ⟨hcfg, hschedule, htransport, fun i => hmove.read_outside, hnone, hlen, hdisc, ?_⟩
  rcases hmove.continues_or_ends with ⟨-, hr⟩ | ⟨-, r, hr, -⟩
  · exact ⟨[], by simpa using hr, Nat.zero_le 1⟩
  · exact ⟨[⟨0x03, r⟩], hr, le_rfl⟩

end Sys2Proof.Machine
end

section
/-! Proofs: the invariants of the reader registers (10_state R22, R24, R27). -/
namespace Sys2Proof.Machine

open Sys2Proof.Safety

/-- The legal configurations in numbers (10_state R27). -/
theorem legal_iff (c : Config) :
    c.legal = true ↔ c.hdrSeed ≠ 0 ∧ (∀ b, c.scanBound = some b → 1 ≤ b) ∧ 1 ≤ c.retryBudget := by
  simp [Config.legal, Option.all_eq_true, and_assoc]

/-! ### All a step can do -/

/-- The kinds of step: the schedule's head is taken, and then nothing, a reader step, a command, a reserved code or a reset
follows (10_state R29, 42_reader R116, 70_reset_and_hazards R156). -/
inductive StepMove (s : State) : State → Prop
  | waits (es : List Event) : StepMove s (s.withSchedule es)
  | reader (es : List Event) {t : State} (hbusy : s.rState ≠ .idle) (h : readerStep (s.withSchedule es) = .next t) :
      StepMove s t
  | command (es : List Event) {i : Instr} {t : State} (h : exec i (s.withSchedule es) = .next t) : StepMove s t
  | reserved (es : List Event) {op : Byte} (hop : op ≠ 0x03) :
      StepMove s ((s.withSchedule es).reply op (.failure .illegalCommand .nothing))
  | reset (es : List Event) {c : Config} (hs : s.schedule = .reset c :: es) (hc : c.legal = true) :
      StepMove s ((s.withSchedule es).resetBlock c)

theorem readerTurn_move {s t : State} {es : List Event} (h : readerTurn (s.withSchedule es) = .next t) :
    StepMove s t := by
  rcases readerTurn_next h with ⟨-, rfl⟩ | ⟨hbusy, hstep⟩
  · exact .waits es
  · exact .reader es hbusy hstep

theorem step_move {s t : State} (h : step s = .next t) : StepMove s t := by
  obtain ⟨-, ⟨-, hturn⟩ | ⟨e, es, hsched, hrun⟩⟩ := step_next h
  · exact readerTurn_move (es := s.schedule) hturn
  · cases e with
    | command c =>
      rcases runCommand_next hrun with ⟨i, -, hexec⟩ | ⟨op, hdecode, rfl⟩
      · exact .command es hexec
      · obtain ⟨-, -, -, hop, -⟩ := decode_reserved hdecode
        exact .reserved es hop
    | readerTurn => exact readerTurn_move hrun
    | reset c =>
      obtain ⟨hc, rfl⟩ := resetTo_next hrun
      exact .reset es hsched hc
    | configure c =>
      obtain ⟨-, rfl⟩ := configure_next hrun
      exact .waits es

/-! ### The buffer after a store of the bytes an HDR or BODY step keeps -/

/-- Bytes stored right behind the bytes held leave those as they are. -/
theorem Memory.read_writeBytes_below {m : Memory} {i j : Nat} {b : List Byte} (h : j < i) :
    Memory.read (Memory.writeBytes m i b) j = Memory.read m j :=
  Memory.read_writeBytes_outside (by omega)

/-- The two bytes of a loaded length field are the ones the buffer holds. -/
theorem Memory.load_length {m : Memory} {h : List Byte} (hload : Memory.load m 1 2 = .ok h) :
    Memory.read m 1 = some (byteAt h 0) ∧ Memory.read m 2 = some (byteAt h 1) := by
  obtain ⟨-, hlen, hread⟩ := Memory.load_ok hload
  match h, hlen with
  | [x, y], _ => exact ⟨hread 0 (by decide), hread 1 (by decide)⟩

end Sys2Proof.Machine

namespace Sys2Proof.Safety

open Sys2Proof.Machine

/-! ### The invariants under each kind of update -/

section Updates

variable {s t : State}

/-- The invariants speak of the registers and the configuration alone. -/
theorem ReaderInv.environment (h : ReaderInv s) (tr : Transport) (es : List Event) (rs : List Reply) :
    ReaderInv { s with transport := tr, schedule := es, replies := rs } :=
  ⟨h.legal, h.bufWf, h.count, h.held, h.disc, h.retry, h.scan, h.hdr, h.body⟩

/-- An idle reader has only the ranges and the buffer to keep. -/
theorem ReaderInv.of_idle (hidle : t.rState = .idle) (legal : t.cfg.legal = true) (bufWf : Memory.wf t.rBuf)
    (count : t.rCount ≤ maxFrame) (held : ∀ i < t.rCount, (Memory.read t.rBuf i).isSome = true)
    (disc : ∀ b, t.cfg.scanBound = some b → t.rDisc ≤ b) (retry : t.rRetry ≤ t.cfg.retryBudget) : ReaderInv t where
  legal := legal
  bufWf := bufWf
  count := count
  held := held
  disc b hb := ⟨disc b hb, fun hbusy => absurd hidle hbusy⟩
  retry := ⟨retry, fun hbusy => absurd hidle hbusy⟩
  scan h := by simp [hidle] at h
  hdr h := by simp [hidle] at h
  body h := by simp [hidle] at h

theorem ReaderInv.disc_le (h : ReaderInv s) : ∀ b, s.cfg.scanBound = some b → s.rDisc ≤ b :=
  fun b hb => (h.disc b hb).1

/-- A call that ends leaves the ranges and the buffer as they are. -/
theorem ReaderInv.endCall (h : ReaderInv s) (r : Response) : ReaderInv (s.endCall r) :=
  .of_idle rfl h.legal h.bufWf h.count h.held h.disc_le h.retry.1

theorem ReaderInv.startCall (h : ReaderInv s) : ReaderInv s.startCall := by
  obtain ⟨-, hbound, hbudget⟩ := (legal_iff s.cfg).1 h.legal
  exact ⟨h.legal, h.bufWf, Nat.zero_le _, fun _ hi => absurd hi (Nat.not_lt_zero _),
    fun b hb => ⟨Nat.zero_le _, fun _ => hbound b hb⟩, ⟨Nat.zero_le _, fun _ => hbudget⟩, fun _ => rfl,
    fun hs => (by cases hs), fun hs => (by cases hs)⟩

theorem ReaderInv.resetBlock (s : State) {c : Config} (hc : c.legal = true) : ReaderInv (s.resetBlock c) :=
  .of_idle rfl hc Memory.wf_nil (Nat.zero_le _) (fun _ hi => absurd hi (Nat.not_lt_zero _)) (fun _ _ => Nat.zero_le _)
    (Nat.zero_le _)

theorem ReaderInv.exec {i : Instr} (h : ReaderInv s) (hexec : exec i s = .next t) : ReaderInv t := by
  rcases exec_next hexec with ⟨_, _, _, _, _, _, _, -, rfl⟩ | ⟨_, -, rfl⟩ | ⟨-, -, rfl⟩ | ⟨-, -, rfl⟩ | ⟨-, -, rfl⟩ |
    ⟨-, -, rfl⟩
  · exact h.environment _ _ _
  · exact h.environment _ _ _
  · exact h.startCall
  · exact h.environment _ _ _
  · exact h.environment _ _ _
  · exact (h.endCall _).environment _ _ _

end Updates

/-! ### The invariants under a reader step -/

section Store

variable {s : State} {b : List Byte} (h : ReaderInv s)
include h

/-- A full answer in HDR completes the four bytes of the link header. -/
theorem ReaderInv.header_end (hs : s.rState = .hdr) (hb : b.length = need s) : s.rCount + b.length = 4 := by
  obtain ⟨-, hcount, -⟩ := h.hdr hs
  rw [need_header hs] at hb
  omega

/-- A full answer in BODY completes the decoded length. -/
theorem ReaderInv.body_end (hs : s.rState = .body) (hb : b.length = need s) : s.rCount + b.length = s.rLen.toNat := by
  obtain ⟨-, hcount, -⟩ := h.body hs
  rw [need_body hs] at hb
  omega

theorem ReaderInv.held_store : ∀ i < s.rCount + b.length,
    (Memory.read (Memory.writeBytes s.rBuf s.rCount b) i).isSome = true :=
  Memory.isSome_read_writeBytes h.held

/-- The magic byte is held behind SCAN, and no later store reaches it. -/
theorem ReaderInv.magic_store (hs : s.rState = .hdr ∨ s.rState = .body) :
    Memory.read (Memory.writeBytes s.rBuf s.rCount b) 0 = some s.cfg.magic := by
  rcases hs with hs | hs
  · obtain ⟨hcount, -, hmagic⟩ := h.hdr hs
    rw [Memory.read_writeBytes_below (by omega), hmagic]
  · obtain ⟨hcount, -, hmagic, -⟩ := h.body hs
    rw [Memory.read_writeBytes_below (by omega), hmagic]

end Store

section Moves

variable {s t : State} {a : Answer} {b : List Byte}

/-- The magic byte found in SCAN is the one byte held (42_reader R117). -/
theorem ReaderInv.magic_found (h : ReaderInv s) (hbusy : Busy s) :
    ReaderInv { s with rBuf := Memory.write s.rBuf 0 s.cfg.magic, rCount := 1, rState := .hdr, rRetry := 0 } := by
  have hread : Memory.read (Memory.write s.rBuf 0 s.cfg.magic) 0 = some s.cfg.magic := by
    rw [Memory.read_write, if_pos rfl]
  refine ⟨h.legal, Memory.wf_write _ h.bufWf (by decide), (by decide : 1 ≤ maxFrame), fun i hi => ?held,
    fun b hb => ⟨h.disc_le b hb, fun _ => (h.disc b hb).2 hbusy⟩,
    ⟨Nat.zero_le _, fun _ => Nat.zero_lt_of_lt (h.retry.2 hbusy)⟩, fun hs => (by cases hs),
    fun _ => ⟨le_rfl, (by decide : 1 ≤ 3), hread⟩, fun hs => (by cases hs)⟩
  case held =>
    obtain rfl := Nat.lt_one_iff.1 hi
    exact Option.isSome_iff_exists.2 ⟨_, hread⟩

/-- A byte discarded below the scan bound leaves the call in SCAN (42_reader R117). -/
theorem ReaderInv.discarded (h : ReaderInv s) (hbusy : Busy s) (hd : s.cfg.scanBound ≠ some (s.rDisc + 1)) :
    ReaderInv { s with rDisc := s.rDisc + 1, rRetry := 0 } := by
  have hbelow : ∀ b, s.cfg.scanBound = some b → s.rDisc + 1 < b := fun b hb =>
    lt_of_le_of_ne ((h.disc b hb).2 hbusy) fun heq => hd (heq ▸ hb)
  exact ⟨h.legal, h.bufWf, h.count, h.held, fun b hb => ⟨(hbelow b hb).le, fun _ => hbelow b hb⟩,
    ⟨Nat.zero_le _, fun _ => Nat.zero_lt_of_lt (h.retry.2 hbusy)⟩, h.scan, h.hdr, h.body⟩

/-- A link header with a length above 4 starts the body (42_reader R119). -/
theorem ReaderInv.body_started (h : ReaderInv s) (hs : s.rState = .hdr) (hb : b.length = need s) {x : List Byte}
    (hx : Memory.load (Memory.writeBytes s.rBuf s.rCount b) 1 2 = .ok x)
    (hl : 4 < (decodeLen (byteAt x 0) (byteAt x 1)).toNat) :
    ReaderInv { s with rBuf := Memory.writeBytes s.rBuf s.rCount b, rCount := 4, rRetry := 0,
                       rLen := decodeLen (byteAt x 0) (byteAt x 1), rState := .body } := by
  have hbusy : Busy s := by simp [hs]
  have hend := h.header_end hs hb
  obtain ⟨h1, h2⟩ := Memory.load_length hx
  exact ⟨h.legal, Memory.wf_writeBytes h.bufWf (hend.trans_le (by decide)), (by decide : 4 ≤ maxFrame),
    hend ▸ h.held_store, fun b hb => ⟨h.disc_le b hb, fun _ => (h.disc b hb).2 hbusy⟩,
    ⟨Nat.zero_le _, fun _ => Nat.zero_lt_of_lt (h.retry.2 hbusy)⟩, fun hs => (by cases hs), fun hs => (by cases hs),
    fun _ => ⟨le_rfl, hl, h.magic_store (.inl hs), _, _, h1, h2, rfl⟩⟩

/-- A short answer that is kept leaves the call in its phase, which it does not complete (42_reader R122). -/
theorem ReaderInv.short_kept (h : ReaderInv s) (hs : s.rState = .hdr ∨ s.rState = .body) (hshort : b.length < need s) :
    ReaderInv { s with rBuf := Memory.writeBytes s.rBuf s.rCount b, rCount := s.rCount + b.length, rRetry := 0 } := by
  have hbusy : Busy s := by rcases hs with hs | hs <;> simp [hs]
  have hfit : s.rCount + b.length ≤ maxFrame :=
    (Nat.add_le_add_left hshort.le _).trans (rCount_add_need_le hs (Nat.one_le_of_lt hshort))
  refine ⟨h.legal, Memory.wf_writeBytes h.bufWf hfit, hfit, h.held_store,
    fun b hb => ⟨h.disc_le b hb, fun _ => (h.disc b hb).2 hbusy⟩,
    ⟨Nat.zero_le _, fun _ => Nat.zero_lt_of_lt (h.retry.2 hbusy)⟩, fun hscan => ?scan, fun hhdr => ?hdr,
    fun hbody => ?body⟩
  case scan => rcases hs with hs | hs <;> cases hs.symm.trans hscan
  case hdr =>
    obtain ⟨hlow, -, -⟩ := h.hdr hhdr
    rw [need_header (s := s) hhdr] at hshort
    exact ⟨hlow.trans (Nat.le_add_right _ _), (by omega : s.rCount + b.length ≤ 3), h.magic_store hs⟩
  case body =>
    obtain ⟨hlow, -, -, b1, b2, h1, h2, hlen⟩ := h.body hbody
    rw [need_body (s := s) hbody] at hshort
    refine ⟨hlow.trans (Nat.le_add_right _ _), (by omega : s.rCount + b.length < s.rLen.toNat), h.magic_store hs,
      b1, b2, ?_, ?_, hlen⟩
    · exact (Memory.read_writeBytes_below (by omega)).trans h1
    · exact (Memory.read_writeBytes_below (by omega)).trans h2

/-- A move keeps the invariants, where its request is the one of the phase and its answer within it. -/
theorem ReaderInv.move (h : ReaderInv s) (hbusy : Busy s) (hmove : ReaderMove a (need s) s t)
    (hle : (delivered a).length ≤ need s) : ReaderInv t := by
  have hbudget : s.rRetry < s.cfg.retryBudget := h.retry.2 hbusy
  cases hmove with
  | terr => exact h.endCall _
  | wait ha hr => exact { h with retry := ⟨hbudget, fun _ => lt_of_le_of_ne hbudget hr⟩ }
  | held | timeout => exact .of_idle rfl h.legal h.bufWf h.count h.held h.disc_le hbudget
  | magic b bs ha hs hb =>
    subst hb
    exact h.magic_found hbusy
  | discard b bs ha hs hb hd => exact h.discarded hbusy hd
  | noMagic b bs ha hs hb hd =>
    exact .of_idle rfl h.legal h.bufWf h.count h.held (fun b hb => (h.disc b hb).2 hbusy) (Nat.zero_le _)
  | badLength b x ha hne hs hb hi | headerOnly b x c ha hne hs hb hi =>
    exact .of_idle rfl h.legal (Memory.wf_writeBytes h.bufWf hi) (by decide : 4 ≤ maxFrame)
      (h.header_end hs hb ▸ h.held_store) h.disc_le (Nat.zero_le _)
  | bodyStarts b x ha hne hs hb hi hx hl => exact h.body_started hs hb hx hl
  | candidate b c ha hne hs hb hi hc =>
    exact .of_idle rfl h.legal (Memory.wf_writeBytes h.bufWf hi) (h.body_end hs hb ▸ hi)
      (h.body_end hs hb ▸ h.held_store) h.disc_le (Nat.zero_le _)
  | shortStrict b ha hne hs hb hacc =>
    exact .of_idle rfl h.legal h.bufWf h.count h.held h.disc_le (Nat.zero_le _)
  | shortKept b ha hne hs hb hi hacc =>
    subst ha
    exact h.short_kept hs (lt_of_le_of_ne hle hb)

theorem ReaderInv.readerStep (h : ReaderInv s) (hbusy : Busy s) (hstep : readerStep s = .next t) : ReaderInv t := by
  obtain ⟨-, a, tr, hread, hmove⟩ := readerStep_next hstep
  obtain ⟨hle, -⟩ := transportDeliversTheStreamOnce s.transport tr (need s) a hread
  exact (h.environment tr s.schedule s.replies).move hbusy hmove hle

end Moves

/-- Settles O46: each kind of step has its lemma. -/
theorem everyStepKeepsTheInvariants : Obligations.EveryStepKeepsTheInvariants := by
  intro s t h hstep
  have hs (es : List Event) : ReaderInv (s.withSchedule es) := h.environment s.transport es s.replies
  cases step_move hstep with
  | waits es => exact hs es
  | reader es hbusy hreader => exact (hs es).readerStep hbusy hreader
  | command es hexec => exact (hs es).exec hexec
  | reserved es => exact (hs es).environment _ _ _
  | reset es _ hc => exact .resetBlock _ hc

/-- Settles O47: the reset state is that of a reset to its own configuration, which is legal. -/
theorem resetMeetsTheInvariants : Obligations.ResetMeetsTheInvariants :=
  ReaderInv.resetBlock State.reset (by decide : State.reset.cfg.legal = true)

end Sys2Proof.Safety
end

section
/-! Proofs: which inputs PARSE accepts, and what no command touches (41_codec R107, 20_memory, 10_state R20, R21). -/
namespace Sys2Proof.Machine

open Sys2Proof.Safety

/-- An input that is not valid fails the first check whose part of `Valid` it does not meet. -/
theorem parseResponse_of_not_valid {cfg : Config} {s : List Byte} (h : ¬ Valid cfg s) :
    ∃ e i, e ≠ .ok ∧ parseResponse cfg s = .failure e i := by
  by_cases hlong : overhead ≤ s.length
  case neg => exact ⟨_, _, by decide, parseResponse_tooShort (Nat.lt_of_not_le hlong)⟩
  by_cases hmagic : byteAt s 0 = cfg.magic
  case neg => exact ⟨_, _, by decide, parseResponse_badMagic hlong hmagic⟩
  by_cases hlen : (decodeLen (byteAt s 1) (byteAt s 2)).toNat = s.length
  case neg => exact ⟨_, _, by decide, parseResponse_lengthMismatch hlong hmagic hlen⟩
  by_cases hhdr : byteAt s 3 = hdrck cfg (slice s 0 2)
  case neg => exact ⟨_, _, by decide, parseResponse_headerChecksum hlong hmagic hlen hhdr⟩
  by_cases hfrm : rd16 s (s.length - 2) = frmck cfg (slice s 0 (s.length - 3))
  case neg => exact ⟨_, _, by decide, parseResponse_frameChecksum hlong hmagic hlen hhdr hfrm⟩
  exact absurd ⟨hlong, hmagic, hlen, hhdr, hfrm⟩ h

/-- Settles O15: a valid input passes all checks, another fails one. -/
theorem parseAcceptsExactlyValidFrames : Obligations.ParseAcceptsExactlyValidFrames := by
  intro st s
  refine ⟨fun h => ⟨_, exec_parse (parseResponse_of_valid h)⟩, fun h => ?_⟩
  obtain ⟨e, i, hne, hresponse⟩ := parseResponse_of_not_valid h
  exact ⟨e, i, hne, exec_parse hresponse⟩

/-- Settles O11: each of the six outcomes of a command writes the fields named and no other. -/
theorem commandsLeaveTheRestUnchanged : Obligations.CommandsLeaveTheRestUnchanged := by
  intro i s t h
  rcases exec_next h with ⟨_, _, _, _, _, _, _, -, rfl⟩ | ⟨_, -, rfl⟩ | ⟨rfl, -, rfl⟩ | ⟨rfl, -, rfl⟩ | ⟨rfl, -, rfl⟩ |
    ⟨rfl, -, rfl⟩
  · exact ⟨rfl, rfl, rfl, rfl, fun _ => rfl, fun _ => ⟨rfl, rfl, rfl⟩, fun _ _ => rfl, _, rfl⟩
  · exact ⟨rfl, rfl, rfl, rfl, fun _ => rfl, fun _ => ⟨rfl, rfl, rfl⟩, fun _ _ => rfl, _, rfl⟩
  · exact ⟨rfl, rfl, rfl, rfl, fun _ => rfl, fun hi => absurd rfl hi, fun hi => absurd rfl hi, [],
      (List.append_nil _).symm⟩
  · exact ⟨rfl, rfl, rfl, rfl, fun _ => rfl, fun _ => ⟨rfl, rfl, rfl⟩, fun _ _ => rfl, _, rfl⟩
  · exact ⟨rfl, rfl, rfl, rfl, fun _ => rfl, fun _ => ⟨rfl, rfl, rfl⟩, fun _ _ => rfl, _, rfl⟩
  · exact ⟨rfl, rfl, rfl, rfl, fun _ => rfl, fun _ => ⟨rfl, rfl, rfl⟩, fun _ hi => absurd rfl hi, _,
      List.append_assoc ..⟩

/-- Settles O21: BUILD and PARSE answer a function of the operands and the configuration. -/
theorem codecResponsesIgnoreTheReader : Obligations.CodecResponsesIgnoreTheReader := by
  intro i s s' hcfg hnext habort
  cases i with
  | build seq src dst ctype cset cid payload =>
    refine ⟨⟨0x01, buildResponse s.cfg seq src dst ctype cset cid payload⟩, rfl, ?_⟩
    rw [hcfg]
    rfl
  | parse bytes =>
    refine ⟨⟨0x02, parseResponse s.cfg bytes⟩, rfl, ?_⟩
    rw [hcfg]
    rfl
  | nextFrame => exact absurd rfl hnext
  | abort => exact absurd rfl habort

/-- Settles O28: the two branches of NEXT_FRAME. -/
theorem nextFrameStartsACallOrAnswersBusy : Obligations.NextFrameStartsACallOrAnswersBusy :=
  fun _ => ⟨exec_nextFrame_idle, exec_nextFrame_busy⟩

/-- Settles O29: the two branches of ABORT. -/
theorem abortEndsTheCallInProgress : Obligations.AbortEndsTheCallInProgress :=
  fun _ => ⟨exec_abort_idle, exec_abort_busy⟩

/-! ### Steps of a legal configuration -/

section Turns

variable {s : State}

theorem runCommand_of_decode {c : Command} {i : Instr} (h : decode c = .ok i) : runCommand c s = exec i s := by
  rw [runCommand, h]

theorem readerTurn_idle (hidle : s.rState = .idle) : readerTurn s = .next s := if_pos hidle

theorem readerTurn_busy (hbusy : s.rState ≠ .idle) : readerTurn s = readerStep s := if_neg hbusy

end Turns

/-- Settles O5: the step takes the record off the schedule, and decoding it gives the command. -/
theorem stepRunsTheScheduledCommand : Obligations.StepRunsTheScheduledCommand :=
  fun _ _ _ _ hcfg hsched hdecode => (step_event hcfg hsched).trans (runCommand_of_decode hdecode)

/-- Settles O6: with nothing scheduled and with a scheduled turn alike the step is the reader's turn. -/
theorem readerStepsOnlyWhileBusy : Obligations.ReaderStepsOnlyWhileBusy :=
  fun _ hcfg => ⟨step_waits hcfg,
    fun hsched hbusy => (step_unscheduled hcfg hsched).trans (readerTurn_busy hbusy),
    fun _ hsched hidle => (step_event hcfg hsched).trans (readerTurn_idle hidle),
    fun _ hsched hbusy => (step_event hcfg hsched).trans (readerTurn_busy hbusy)⟩

theorem step_illegal {s : State} (h : s.cfg.legal = false) : step s = .refused .illegalConfiguration :=
  if_neg (ne_true_of_eq_false h)

theorem resetTo_illegal {c : Config} (s : State) (h : c.legal = false) : resetTo c s = .refused .illegalConfiguration :=
  if_neg (ne_true_of_eq_false h)

theorem configure_change {c : Config} {s : State} (h : c ≠ s.cfg) : configure c s = .refused .configurationChange :=
  if_neg h

/-- Settles O7: the legal configurations by `legal_iff`, the refusals by the branches of the step, reset and configure. -/
theorem illegalConfigurationsAreRefused : Obligations.IllegalConfigurationsAreRefused :=
  ⟨legal_iff, fun _ => step_illegal,
    fun _ _ _ hcfg hsched hc => (step_event hcfg hsched).trans (resetTo_illegal _ hc),
    fun _ _ _ hcfg hsched hc => (step_event hcfg hsched).trans (configure_change hc)⟩

/-- Settles O9: the reset state is a literal, and its buffer holds nothing. -/
theorem resetStateHasTheResetValues : Obligations.ResetStateHasTheResetValues :=
  ⟨rfl, rfl, rfl, rfl, rfl, fun _ => rfl⟩

end Sys2Proof.Machine
end

section
/-! Proofs: the responses a step delivers (10_state R30, 42_reader R114, 60_exceptions R136). -/
namespace Sys2Proof.Machine

open Sys2Proof.Safety

/-! ### Shapes -/

theorem replyShaped_failure (op : Byte) {e : Status} (i : Info) (he : e ≠ .ok) : ReplyShaped ⟨op, .failure e i⟩ :=
  ⟨fun _ => rfl, fun h => absurd h he⟩

theorem replyShaped_build (cfg : Config) (seq : Half) (src dst ctype cset cid : Byte) (payload : List Byte) :
    ReplyShaped ⟨0x01, buildResponse cfg seq src dst ctype cset cid payload⟩ := by
  rw [buildResponse]
  split
  · exact replyShaped_failure _ _ (by decide)
  · exact ⟨fun h => absurd rfl h, fun _ => ⟨rfl, .inl ⟨rfl, _, rfl⟩⟩⟩

theorem replyShaped_parse (cfg : Config) (s : List Byte) : ReplyShaped ⟨0x02, parseResponse cfg s⟩ := by
  by_cases h : Valid cfg s
  · rw [parseResponse_of_valid h]
    exact ⟨fun h => absurd rfl h, fun _ => ⟨rfl, .inr (.inl ⟨rfl, _, rfl⟩)⟩⟩
  · obtain ⟨e, i, he, hresponse⟩ := parseResponse_of_not_valid h
    exact hresponse ▸ replyShaped_failure _ _ he

theorem replyShaped_abort : ReplyShaped ⟨0x04, .success .empty⟩ :=
  ⟨fun h => absurd rfl h, fun _ => ⟨rfl, .inr (.inr (.inr ⟨rfl, rfl⟩))⟩⟩

/-- The responses of a state with responses of the right shape added. -/
def AddsShaped (s t : State) : Prop := ∃ l, t.replies = s.replies ++ l ∧ ∀ r ∈ l, ReplyShaped r

theorem AddsShaped.none {s t : State} (h : t.replies = s.replies) : AddsShaped s t :=
  ⟨[], by rw [h, List.append_nil], by simp⟩

theorem AddsShaped.one {s t : State} {r : Reply} (h : t.replies = s.replies ++ [r]) (hr : ReplyShaped r) :
    AddsShaped s t :=
  ⟨[r], h, by simpa using hr⟩

theorem exec_addsShaped {i : Instr} {s t : State} (h : exec i s = .next t) : AddsShaped s t := by
  rcases exec_next h with ⟨_, _, _, _, _, _, _, -, rfl⟩ | ⟨_, -, rfl⟩ | ⟨-, -, rfl⟩ | ⟨-, -, rfl⟩ | ⟨-, -, rfl⟩ |
    ⟨-, -, rfl⟩
  · exact .one rfl (replyShaped_build ..)
  · exact .one rfl (replyShaped_parse ..)
  · exact .none rfl
  · exact .one rfl (replyShaped_failure _ _ (by decide))
  · exact .one rfl replyShaped_abort
  · refine ⟨_, List.append_assoc .., fun r hr => ?_⟩
    rcases List.mem_pair.1 hr with rfl | rfl
    · exact replyShaped_failure _ _ (by decide)
    · exact replyShaped_abort

theorem readerStep_addsShaped {s t : State} (h : readerStep s = .next t) : AddsShaped s t := by
  obtain ⟨-, a, tr, -, hmove⟩ := readerStep_next h
  rcases hmove.continues_or_ends with ⟨-, hreplies⟩ | ⟨-, r, hreplies, -, hr⟩
  · exact .none hreplies
  · exact .one hreplies hr

theorem step_addsShaped {s t : State} (h : step s = .next t) : AddsShaped s t := by
  cases step_move h with
  | waits es => exact .none rfl
  | reader es hbusy hreader => exact readerStep_addsShaped (s := s.withSchedule es) hreader
  | command es hexec => exact exec_addsShaped (s := s.withSchedule es) hexec
  | reserved es => exact .one rfl (replyShaped_failure _ _ (by decide))
  | reset es => exact .none rfl

/-- Settles O50: a step only adds responses, and those it adds are of their shapes. -/
theorem everyStepKeepsResponsesShaped : Obligations.EveryStepKeepsResponsesShaped := by
  intro s t h hs r hr
  obtain ⟨l, hl, hshaped⟩ := step_addsShaped h
  rw [hl, List.mem_append] at hr
  exact hr.elim (hs r) (hshaped r)

/-! ### The one response of a call -/

/-- From `s` to `t` the responses added hold exactly one that ends a call if the reader goes from busy to idle, and none
otherwise. -/
def AnswersCalls (s t : State) : Prop :=
  ∃ l, t.replies = s.replies ++ l ∧
    (l.filter fun r => endsCall r).length = if s.rState ≠ .idle ∧ t.rState = .idle then 1 else 0

section Answers

variable {s t : State}

theorem AnswersCalls.none (hr : t.replies = s.replies) (hst : s.rState ≠ .idle → t.rState ≠ .idle) :
    AnswersCalls s t :=
  ⟨[], by rw [hr, List.append_nil], by rw [if_neg fun h => hst h.1 h.2]; rfl⟩

theorem AnswersCalls.other {r : Reply} (hr : t.replies = s.replies ++ [r]) (hend : endsCall r = false)
    (hst : t.rState = s.rState) : AnswersCalls s t :=
  ⟨[r], hr, by rw [if_neg fun h => h.1 (hst ▸ h.2), List.filter_singleton, hend]; rfl⟩

theorem AnswersCalls.ends {r : Response} (hr : t.replies = s.replies ++ [⟨0x03, r⟩]) (hne : r.status ≠ .busy)
    (hbusy : s.rState ≠ .idle) (hidle : t.rState = .idle) : AnswersCalls s t := by
  have hend : endsCall ⟨0x03, r⟩ = true := by simp [hne]
  exact ⟨[⟨0x03, r⟩], hr, by rw [if_pos ⟨hbusy, hidle⟩, List.filter_singleton, hend]; rfl⟩

theorem exec_answersCalls {i : Instr} (h : exec i s = .next t) : AnswersCalls s t := by
  rcases exec_next h with ⟨_, _, _, _, _, _, _, -, rfl⟩ | ⟨_, -, rfl⟩ | ⟨-, hidle, rfl⟩ | ⟨-, -, rfl⟩ | ⟨-, -, rfl⟩ |
    ⟨-, hbusy, rfl⟩
  · exact .other rfl (by simp) rfl
  · exact .other rfl (by simp) rfl
  · exact .none rfl fun hbusy => absurd hidle hbusy
  · exact .other rfl (by simp) rfl
  · exact .other rfl (by simp) rfl
  · exact ⟨_, List.append_assoc .., by simp [hbusy]⟩

theorem readerStep_answersCalls (hbusy : s.rState ≠ .idle) (h : readerStep s = .next t) : AnswersCalls s t := by
  obtain ⟨-, a, tr, -, hmove⟩ := readerStep_next h
  rcases hmove.continues_or_ends with ⟨hst, hreplies⟩ | ⟨hidle, r, hreplies, hne, -⟩
  · exact .none hreplies hst
  · exact .ends hreplies hne hbusy hidle

end Answers

/-- Settles O49: a reset delivers nothing and leaves an idle reader; each other kind of step has its lemma. -/
theorem everyCallGetsExactlyOneResponse : Obligations.EveryCallGetsExactlyOneResponse := by
  intro s t h
  refine ⟨?reset, fun hother => ?other⟩
  case reset =>
    rintro ⟨c, es, hsched⟩
    obtain ⟨hcfg, -⟩ := step_next h
    obtain ⟨-, rfl⟩ := resetTo_next ((step_event hcfg hsched).symm.trans h)
    exact ⟨rfl, fun hbusy => hbusy rfl⟩
  case other =>
    change AnswersCalls s t
    cases step_move h with
    | waits es => exact .none rfl id
    | reader es hbusy hreader => exact readerStep_answersCalls (s := s.withSchedule es) hbusy hreader
    | command es hexec => exact exec_answersCalls (s := s.withSchedule es) hexec
    | reserved es hop => exact .other rfl (decide_eq_false fun hend => hop hend.1) rfl
    | reset es hs => exact absurd ⟨_, es, hs⟩ hother

/-! ### Status codes -/

/-- The statuses in the order of 60_exceptions R136. -/
def allStatuses : List Status :=
  [.ok, .transportError, .tooShort, .badMagic, .lengthMismatch, .noMagic, .shortRead, .timeout, .badLength,
    .headerChecksum, .frameChecksum, .tooLong, .aborted, .illegalCommand, .busy]

theorem mem_allStatuses (e : Status) : e ∈ allStatuses := by
  cases e <;> decide

/-- Settles O51: the tables by computation, and the codes of the table, which holds every status, have no repetition. -/
theorem statusCodesAreTheTables : Obligations.StatusCodesAreTheTables := by
  have hnodup : (allStatuses.map Status.code).Nodup := by decide
  exact ⟨rfl, rfl, fun a b h => List.inj_on_of_nodup_map hnodup (mem_allStatuses a) (mem_allStatuses b) h⟩

end Sys2Proof.Machine
end

section
/-! Proofs: the checksum functions of `DUML_DEFAULT` (40_checksums R92 to R95). -/
namespace Sys2Proof.Machine

open Sys2Proof.Safety

/-- Settles O24: six closed values. -/
theorem checksumCheckValues : Obligations.ChecksumCheckValues := by
  unfold Obligations.ChecksumCheckValues
  decide +kernel

/-! ### The table forms and the bit-serial forms -/

/-- Each entry of `T8` is eight shifts of its index. -/
theorem crc8Step_eq_shift (c b : Byte) : t8 (b ^^^ c) = crc8Shift 8 (c ^^^ b) :=
  congrArg (crc8Shift 8) (BitVec.xor_comm b c)

theorem and_one_eq_one_iff (c : Half) : c &&& 1 = 1 ↔ c.getLsbD 0 = true := by
  change c &&& 1#16 = 1#16 ↔ _
  rw [BitVec.and_one_eq_setWidth_ofBool_getLsbD]
  cases c.getLsbD 0 <;> decide

theorem xor_right_comm (a b p : Half) : a ^^^ b ^^^ p = a ^^^ p ^^^ b := by
  rw [BitVec.xor_assoc, BitVec.xor_comm b, ← BitVec.xor_assoc]

theorem xor_xor_xor_cancel (a b p : Half) : (a ^^^ p) ^^^ (b ^^^ p) = a ^^^ b := by
  rw [BitVec.xor_assoc, BitVec.xor_comm b, ← BitVec.xor_assoc p, BitVec.xor_self, BitVec.zero_xor]

/-- Shifting with the polynomial is linear. -/
theorem crc16Shift_xor (k : Nat) (c d : Half) : crc16Shift k (c ^^^ d) = crc16Shift k c ^^^ crc16Shift k d := by
  induction k generalizing c d with
  | zero => rfl
  | succ k ih =>
    have hshift : (c ^^^ d) >>> 1 = c >>> 1 ^^^ d >>> 1 := BitVec.ushiftRight_xor_distrib ..
    simp only [crc16Shift, ← ih, and_one_eq_one_iff, BitVec.getLsbD_xor, hshift]
    congr 1
    cases c.getLsbD 0 <;> cases d.getLsbD 0
    · rfl
    · exact BitVec.xor_assoc ..
    · exact xor_right_comm ..
    · exact (xor_xor_xor_cancel ..).symm

/-- Where the low bits are 0 no polynomial is added: the shifts only move the high bits down. -/
theorem crc16Shift_of_low_zero (k : Nat) (c : Half) (h : ∀ i < k, c.getLsbD i = false) : crc16Shift k c = c >>> k := by
  induction k generalizing c with
  | zero => simp [crc16Shift]
  | succ k ih =>
    have hodd : ¬ c &&& 1 = 1 := by
      rw [and_one_eq_one_iff, h 0 (Nat.succ_pos k)]
      decide
    rw [crc16Shift, if_neg hodd, ih, ← BitVec.shiftRight_add, Nat.add_comm]
    intro i hi
    rw [BitVec.getLsbD_ushiftRight, Nat.add_comm]
    exact h (i + 1) (by omega)

/-- A 16-bit value is its high byte in place and its low byte. -/
theorem half_split (v : Half) : v = (v >>> 8) <<< 8 ^^^ (v.setWidth 8).setWidth 16 := by
  apply BitVec.eq_of_getLsbD_eq
  intro i hi
  by_cases h : i < 8 
  · simp [h, hi]
  · have e : 8 + (i - 8) = i := by omega
    simp [h, hi, e]

/-- One byte of the table form is eight shifts of the bit-serial one (40_checksums R92). -/
theorem crc16Step_eq_shift (v : Half) (b : Byte) : crc16Step v b = crc16Shift 8 (v ^^^ b.setWidth 16) := by
  have hhigh : crc16Shift 8 ((v >>> 8) <<< 8) = v >>> 8 := by
    rw [crc16Shift_of_low_zero]
    · apply BitVec.eq_of_getLsbD_eq
      intro i hi
      by_cases h : 8 + i < 16
      · simp [h]
      · simp [h, BitVec.getLsbD_of_ge v _ (Nat.le_of_not_lt h)]
    · intro i hi
      simp [hi]
  have hsplit : v ^^^ b.setWidth 16 = (v >>> 8) <<< 8 ^^^ (b ^^^ v.setWidth 8).setWidth 16 := by
    conv_lhs => rw [half_split v]
    rw [BitVec.setWidth_xor, BitVec.xor_assoc, BitVec.xor_comm (b.setWidth 16)]
  rw [hsplit, crc16Shift_xor, hhigh]
  rfl

/-- Settles O25: one byte of the table form and of the bit-serial form are the same function. -/
theorem tableFormsEqualBitSerialForms : Obligations.TableFormsEqualBitSerialForms :=
  ⟨fun seed s => congrArg (List.foldl · seed s) (funext₂ crc8Step_eq_shift),
    fun init s => congrArg (List.foldl · init s) (funext₂ crc16Step_eq_shift)⟩

/-! ### One flipped bit -/

theorem flipBit_length (s : List Byte) (i j : Nat) : (flipBit s i j).length = s.length := List.length_set

/-- The flipped byte differs from the byte. -/
theorem xor_twoPow_ne (b : Byte) {j : Nat} (hj : j < 8) : b ^^^ BitVec.twoPow 8 j ≠ b := by
  intro h
  have hbit := congrArg (fun z : Byte => z.getLsbD j) h
  simp [hj] at hbit

/-- A flipped bit changes one byte and leaves the bytes around it alone. -/
theorem exists_append_of_flipBit {s : List Byte} {i j : Nat} (hi : i < s.length) (hj : j < 8) :
    ∃ (before after : List Byte) (b c : Byte), c ≠ b ∧ s = before ++ b :: after ∧ flipBit s i j = before ++ c :: after := by
  refine ⟨s.take i, s.drop (i + 1), byteAt s i, byteAt s i ^^^ BitVec.twoPow 8 j, xor_twoPow_ne _ hj, ?_, ?_⟩
  · rw [byteAt, List.getD_eq_getElem _ _ hi, ← List.drop_eq_getElem_cons hi, List.take_append_drop]
  · rw [flipBit, List.set_eq_take_append_cons_drop, if_pos hi]

/-- One changed byte changes the header checksum: the change shows in the step that takes the byte and is never lost. -/
theorem dumlHdrck_ne {seed b c : Byte} (before after : List Byte) (h : c ≠ b) :
    dumlHdrck seed (before ++ c :: after) ≠ dumlHdrck seed (before ++ b :: after) := by
  intro heq
  simp only [dumlHdrck, List.foldl_append, List.foldl_cons] at heq
  exact h ((BitVec.xor_left_inj _).1 (t8_injective (dumlHdrck_injective heq)))

/-- The same of the frame checksum. -/
theorem dumlFrmck_ne {init : Half} {b c : Byte} (before after : List Byte) (h : c ≠ b) :
    dumlFrmck init (before ++ c :: after) ≠ dumlFrmck init (before ++ b :: after) := by
  intro heq
  simp only [dumlFrmck, List.foldl_append, List.foldl_cons] at heq
  exact h (crc16Step_injective_byte (dumlFrmck_injective heq))

/-- Settles O26: a flipped bit is one changed byte. -/
theorem defaultHeaderChecksumIsSensitive : Obligations.DefaultHeaderChecksumIsSensitive := by
  intro sb rb s i j hlen hi hj
  obtain ⟨before, after, b, c, hne, hs, hflip⟩ := exists_append_of_flipBit (hlen ▸ hi : i < s.length) hj
  rw [hflip, hs]
  exact dumlHdrck_ne before after hne

/-- Settles O27: a flipped bit is one changed byte, in a sequence of whatever length. -/
theorem defaultFrameChecksumIsSensitive : Obligations.DefaultFrameChecksumIsSensitive := by
  intro sb rb s i j _ hi hj
  obtain ⟨before, after, b, c, hne, hs, hflip⟩ := exists_append_of_flipBit hi hj
  rw [hflip, hs]
  exact dumlFrmck_ne before after hne

end Sys2Proof.Machine
end

section
/-! Proofs: damaged frames (41_codec R105, R110, R111). -/
namespace Sys2Proof.Machine

open Sys2Proof.Safety

/-! ### Inputs of the wrong length -/

/-- Settles O20: no decoded length is above 1023. -/
theorem overlongInputsAreRejected : Obligations.OverlongInputsAreRejected := by
  intro st s hlong
  have hfit : overhead ≤ s.length := (by decide : overhead ≤ 1023).trans hlong.le
  by_cases hmagic : byteAt s 0 = st.cfg.magic
  case pos =>
    have hlen : (decodeLen (byteAt s 1) (byteAt s 2)).toNat ≠ s.length := ((decodeLen_le _ _).trans_lt hlong).ne
    rw [if_pos hmagic]
    exact ⟨_, exec_parse (parseResponse_lengthMismatch hfit hmagic hlen)⟩
  case neg =>
    rw [if_neg hmagic]
    exact ⟨_, exec_parse (parseResponse_badMagic hfit hmagic)⟩

theorem byteAt_take {s : List Byte} {n i : Nat} (h : i < n) : byteAt (s.take n) i = byteAt s i := by
  rw [byteAt, byteAt, List.getD_eq_getElem?_getD, List.getD_eq_getElem?_getD, List.getElem?_take_of_lt h]

/-- An input that starts as a valid frame does and has another length fails by the length. -/
theorem parseResponse_of_other_length {cfg : Config} {f s : List Byte} (h : Valid cfg f)
    (hstart : ∀ i < 3, byteAt s i = byteAt f i) (hlong : overhead ≤ s.length) (hne : s.length ≠ f.length) :
    ∃ info, parseResponse cfg s = .failure .lengthMismatch info := by
  obtain ⟨-, hmagic, hlen, -⟩ := h
  refine ⟨_, parseResponse_lengthMismatch hlong ((hstart 0 (by decide)).trans hmagic) ?_⟩
  rw [hstart 1 (by decide), hstart 2 (by decide), hlen]
  exact hne.symm

/-- Settles O19: a cut and an extension of a valid frame keep its first three bytes, as long as 13 are left. -/
theorem truncationAndExtensionAreReported : Obligations.TruncationAndExtensionAreReported := by
  refine ⟨fun st f k h hk hkf => ?truncated, fun st f x h hx => ?extended⟩
  case truncated =>
    have hlen : (f.take (f.length - k)).length = f.length - k := by
      rw [List.length_take]
      omega
    by_cases hshort : f.length - k < 13
    case pos =>
      rw [if_pos hshort]
      exact ⟨_, exec_parse (parseResponse_tooShort (hlen.trans_lt hshort))⟩
    case neg =>
      rw [if_neg hshort]
      have hlong : overhead ≤ (f.take (f.length - k)).length := (Nat.le_of_not_lt hshort).trans_eq hlen.symm
      obtain ⟨info, hresponse⟩ := parseResponse_of_other_length h (fun i hi => byteAt_take (by omega)) hlong (by omega)
      exact ⟨info, exec_parse hresponse⟩
  case extended =>
    obtain ⟨hlong, -⟩ := id h
    have hpos := List.length_pos_iff.2 hx
    have hlen : (f ++ x).length = f.length + x.length := List.length_append
    obtain ⟨info, hresponse⟩ := parseResponse_of_other_length (s := f ++ x) h
      (fun i hi => byteAt_append_left (hi.trans_le ((by decide : 3 ≤ overhead).trans hlong))) (by omega) (by omega)
    exact ⟨info, exec_parse hresponse⟩

/-! ### Single flipped bits -/

section Flip

variable {s : List Byte} {i j : Nat}

theorem byteAt_flipBit_same (hi : i < s.length) : byteAt (flipBit s i j) i = byteAt s i ^^^ BitVec.twoPow 8 j := by
  rw [byteAt, flipBit, List.getD_eq_getElem?_getD, List.getElem?_set_self hi, Option.getD_some]

theorem byteAt_flipBit_other {k : Nat} (hk : k ≠ i) : byteAt (flipBit s i j) k = byteAt s k := by
  rw [byteAt, flipBit, List.getD_eq_getElem?_getD, List.getElem?_set_ne hk.symm, ← List.getD_eq_getElem?_getD, byteAt]

/-- The first bytes are unchanged where they end before the flipped one. -/
theorem slice_flipBit_before {n : Nat} (h : n < i) : slice (flipBit s i j) 0 n = slice s 0 n := by
  rw [slice, slice, flipBit, List.drop_zero, List.drop_zero, List.take_set_of_le (by omega)]

/-- The first bytes of a flipped sequence are the first bytes with that bit flipped, where they hold its byte. -/
theorem slice_flipBit_within {n : Nat} (h : i ≤ n) : slice (flipBit s i j) 0 n = flipBit (slice s 0 n) i j := by
  have hbyte : byteAt (slice s 0 n) i = byteAt s i := byteAt_take (by omega)
  rw [flipBit, flipBit, hbyte, slice, slice, List.drop_zero, List.drop_zero, List.take_set]

end Flip

/-- A flip in either byte of a 16-bit value changes the value. -/
theorem rd16_flipBit_ne {s : List Byte} {i j k : Nat} (hi : i < s.length) (hj : j < 8) (hk : i = k ∨ i = k + 1) :
    rd16 (flipBit s i j) k ≠ rd16 s k := by
  intro h
  obtain ⟨hlow, hhigh⟩ := half_inj h
  rcases hk with rfl | rfl
  · exact xor_twoPow_ne _ hj ((byteAt_flipBit_same hi).symm.trans hlow)
  · exact xor_twoPow_ne _ hj ((byteAt_flipBit_same hi).symm.trans hhigh)

theorem rd16_flipBit_other {s : List Byte} {i j k : Nat} (h : k ≠ i) (h' : k + 1 ≠ i) :
    rd16 (flipBit s i j) k = rd16 s k := by
  rw [rd16, rd16, byteAt_flipBit_other h, byteAt_flipBit_other h']

/-- The low two bits of a byte tell a flip of one of them, and no other. -/
theorem xor_twoPow_and_three :
    ∀ b : Byte, ∀ j < 8, ((b ^^^ BitVec.twoPow 8 j) &&& 0x03 = b &&& 0x03 ↔ 2 ≤ j) := by decide +kernel

section FlippedFrame

variable {cfg : Config} {f : List Byte} {i j : Nat} (h : Valid cfg f) (hj : j < 8)
include h hj

theorem parseResponse_flip_magic :
    ∃ info, parseResponse cfg (flipBit f 0 j) = .failure .badMagic info := by
  obtain ⟨hlong, hmagic, -⟩ := h
  have hpos : 0 < f.length := (by decide : 0 < overhead).trans_le hlong
  refine ⟨_, parseResponse_badMagic (hlong.trans_eq (flipBit_length ..).symm) ?_⟩
  rw [byteAt_flipBit_same hpos, ← hmagic]
  exact xor_twoPow_ne _ hj

/-- A flip among the ten length bits changes the decoded length and not the number of bytes. -/
theorem parseResponse_flip_length (hi : i = 1 ∨ i = 2 ∧ j < 2) :
    ∃ info, parseResponse cfg (flipBit f i j) = .failure .lengthMismatch info := by
  obtain ⟨hlong, hmagic, hlen, -⟩ := h
  have hlt : 2 < f.length := (by decide : 2 < overhead).trans_le hlong
  refine ⟨_, parseResponse_lengthMismatch (hlong.trans_eq (flipBit_length ..).symm)
    ((byteAt_flipBit_other (by omega)).trans hmagic) ?_⟩
  rw [flipBit_length, ← hlen]
  intro heq
  obtain ⟨h1, h2⟩ := decodeLen_eq_iff.1 (BitVec.eq_of_toNat_eq heq)
  rcases hi with rfl | ⟨rfl, hlow⟩
  · rw [byteAt_flipBit_same (by omega)] at h1
    exact xor_twoPow_ne _ hj h1
  · rw [byteAt_flipBit_same hlt, xor_twoPow_and_three _ j hj] at h2
    omega

/-- A flip elsewhere leaves the magic byte, the number of bytes and the decoded length as they are. -/
theorem flipBit_keeps_length (hi : i = 2 ∧ 2 ≤ j ∨ 3 ≤ i) :
    overhead ≤ (flipBit f i j).length ∧ byteAt (flipBit f i j) 0 = cfg.magic ∧
    (decodeLen (byteAt (flipBit f i j) 1) (byteAt (flipBit f i j) 2)).toNat = (flipBit f i j).length := by
  obtain ⟨hlong, hmagic, hlen, -⟩ := h
  refine ⟨hlong.trans_eq (flipBit_length ..).symm, (byteAt_flipBit_other (by omega)).trans hmagic, ?_⟩
  rw [flipBit_length, ← hlen]
  congr 1
  refine decodeLen_eq_iff.2 ⟨byteAt_flipBit_other (by omega), ?_⟩
  rcases hi with ⟨rfl, hhigh⟩ | hi
  · rw [byteAt_flipBit_same ((by decide : 2 < overhead).trans_le hlong), xor_twoPow_and_three _ j hj]
    exact hhigh
  · rw [byteAt_flipBit_other (by omega)]

/-- A flip of a version bit changes the header checksum (40_checksums R94), a flip in the checksum byte the stored one. -/
theorem parseResponse_flip_header (hhdr : HdrSensitive cfg) (hi : i = 2 ∧ 2 ≤ j ∨ i = 3) :
    ∃ info, parseResponse cfg (flipBit f i j) = .failure .headerChecksum info := by
  obtain ⟨hlong, hmagic, hlen⟩ := flipBit_keeps_length (i := i) h hj (by omega)
  refine ⟨_, parseResponse_headerChecksum hlong hmagic hlen ?_⟩
  obtain ⟨hlong, -, -, hstored, -⟩ := h
  simp only [overhead] at hlong
  rcases hi with ⟨rfl, -⟩ | rfl
  · rw [byteAt_flipBit_other (by decide), slice_flipBit_within le_rfl, hstored]
    exact (hhdr _ 2 j (slice_length (by omega)) (by decide) hj).symm
  · rw [byteAt_flipBit_same (by omega), slice_flipBit_before (by decide), ← hstored]
    exact xor_twoPow_ne _ hj

/-- A flip behind the link header changes the frame checksum (40_checksums R95) or the stored one. -/
theorem parseResponse_flip_frame (hfrm : FrmSensitive cfg) (hi : 4 ≤ i) (hlt : i < f.length) :
    ∃ info, parseResponse cfg (flipBit f i j) = .failure .frameChecksum info := by
  obtain ⟨hlong, hmagic, hlen⟩ := flipBit_keeps_length (i := i) h hj (by omega)
  have hmax := length_le_of_valid h
  obtain ⟨-, -, -, hhdr, hstored⟩ := h
  refine ⟨_, parseResponse_frameChecksum hlong hmagic hlen ?_ ?_⟩
  · rw [byteAt_flipBit_other (by omega), slice_flipBit_before (by omega), hhdr]
  · rw [flipBit_length]
    simp only [overhead, maxFrame] at hlong hmax
    by_cases hcovered : i ≤ f.length - 3
    · have hslice : (slice f 0 (f.length - 3)).length = f.length - 3 + 1 - 0 := slice_length (by omega)
      rw [rd16_flipBit_other (by omega) (by omega), slice_flipBit_within hcovered, hstored]
      exact (hfrm _ i j (by omega) (by omega) hj).symm
    · rw [slice_flipBit_before (by omega), ← hstored]
      exact rd16_flipBit_ne hlt hj (by omega)

/-- The rows of the table of 41_codec R110, by the place of the flipped bit. -/
theorem parseResponse_flipBit (hhdr : HdrSensitive cfg) (hfrm : FrmSensitive cfg) (hi : i < f.length) :
    ∃ info, parseResponse cfg (flipBit f i j) = .failure (flipStatus i j) info := by
  unfold flipStatus
  split_ifs with h0 h1 h2 h2' h3
  · exact h0 ▸ parseResponse_flip_magic h hj
  · exact parseResponse_flip_length h hj (.inl h1)
  · exact parseResponse_flip_length h hj (.inr h2)
  · exact parseResponse_flip_header h hj hhdr (.inl (by omega))
  · exact parseResponse_flip_header h hj hhdr (.inr h3)
  · exact parseResponse_flip_frame h hj hfrm (by omega) hi

end FlippedFrame

/-- Settles O18: PARSE answers what the table's row says. -/
theorem singleBitFlipsAreReported : Obligations.SingleBitFlipsAreReported := by
  intro st f i j hhdr hfrm h hi hj
  obtain ⟨info, hresponse⟩ := parseResponse_flipBit h hj hhdr hfrm hi
  exact ⟨info, exec_parse hresponse⟩

end Sys2Proof.Machine
end

section
/-! Proofs: candidates, the accounting of bytes, and progress (42_reader R114, R128, R131, R132). -/
namespace Sys2Proof.Machine

open Sys2Proof.Safety

/-! ### The candidate of a call that ends with OK -/

theorem byteAt_of_getElem? {s : List Byte} {i : Nat} {x : Byte} (h : s[i]? = some x) : byteAt s i = x := by
  rw [byteAt, List.getD_eq_getElem?_getD, h, Option.getD_some]

/-- `cand` is a candidate that a call ended with in state `t` (42_reader R114): it starts with the magic byte, its length
is the one its own bytes say, and it is what the buffer holds. -/
structure IsCandidate (cfg : Config) (t : State) (cand : List Byte) : Prop where
  magic  : byteAt cand 0 = cfg.magic
  length : cand.length = (decodeLen (byteAt cand 1) (byteAt cand 2)).toNat
  long   : 4 ≤ cand.length
  count  : t.rCount = cand.length
  rLen   : t.rLen.toNat = cand.length
  idle   : t.rState = .idle
  buffer : ∀ k < cand.length, Memory.read t.rBuf k = cand[k]?

/-- The first `R_LEN` bytes of a buffer that starts with the magic byte and the bytes of `R_LEN` are a candidate. -/
theorem isCandidate_of_load {t : State} {cfg : Config} {cand : List Byte} {b1 b2 : Byte}
    (hload : Memory.load t.rBuf 0 t.rLen.toNat = .ok cand) (hlong : 4 ≤ t.rLen.toNat)
    (h0 : Memory.read t.rBuf 0 = some cfg.magic) (h1 : Memory.read t.rBuf 1 = some b1)
    (h2 : Memory.read t.rBuf 2 = some b2) (hlen : t.rLen = decodeLen b1 b2) (hcount : t.rCount = t.rLen.toNat)
    (hidle : t.rState = .idle) : IsCandidate cfg t cand := by
  obtain ⟨-, hc, hread⟩ := Memory.load_ok hload
  simp only [Nat.zero_add] at hread
  have e1 : byteAt cand 1 = b1 := byteAt_of_getElem? ((hread 1 (by omega)).symm.trans h1)
  have e2 : byteAt cand 2 = b2 := byteAt_of_getElem? ((hread 2 (by omega)).symm.trans h2)
  exact ⟨byteAt_of_getElem? ((hread 0 (by omega)).symm.trans h0), by rw [hc, e1, e2, hlen], hc ▸ hlong,
    hcount.trans hc.symm, hc.symm, hidle, hc ▸ hread⟩

/-- The two moves that end a call with OK give a candidate, the others give no OK (42_reader R114). -/
theorem ReaderMove.isCandidate {a : Answer} {s t : State} {c : List Byte} {i : Info} (hmove : ReaderMove a (need s) s t)
    (h : ReaderInv s) (hr : t.replies = s.replies ++ [⟨0x03, ⟨.ok, .bytes c, i⟩⟩]) : IsCandidate s.cfg t c := by
  cases hmove with
  | wait | magic | discard | bodyStarts | shortKept => simp at hr
  | terr | held | timeout | noMagic | badLength | shortStrict => simp [Response.failure] at hr
  | headerOnly b x c' ha hne hs hb hi hx hl hc =>
    obtain ⟨rfl, -⟩ : c' = c ∧ Info.nothing = i := by simpa [Response.success] using hr
    obtain ⟨h1, h2⟩ := Memory.load_length hx
    exact isCandidate_of_load (by simpa [hl] using hc) hl.ge (h.magic_store (.inl hs)) h1 h2 rfl hl.symm rfl
  | candidate b c' ha hne hs hb hi hc =>
    obtain ⟨rfl, -⟩ : c' = c ∧ Info.nothing = i := by simpa [Response.success] using hr
    obtain ⟨hlow, hcount, -, b1, b2, h1, h2, hlen⟩ := h.body hs
    exact isCandidate_of_load hc (by change 4 ≤ s.rLen.toNat; omega) (h.magic_store (.inr hs))
      ((Memory.read_writeBytes_below (by omega)).trans h1) ((Memory.read_writeBytes_below (by omega)).trans h2) hlen
      rfl rfl

theorem readerStep_isCandidate {s t : State} {c : List Byte} {i : Info} (h : ReaderInv s)
    (hstep : readerStep s = .next t) (hr : t.replies = s.replies ++ [⟨0x03, ⟨.ok, .bytes c, i⟩⟩]) :
    IsCandidate s.cfg t c := by
  obtain ⟨-, a, tr, -, hmove⟩ := readerStep_next hstep
  exact hmove.isCandidate (s := { s with transport := tr }) (h.environment tr s.schedule s.replies) hr

/-- Settles O38: `IsCandidate` is the conjunction. -/
theorem candidatesHaveTheDecodedLength : Obligations.CandidatesHaveTheDecodedLength := by
  intro s t c i h hstep hr
  obtain ⟨hmagic, hlen, hlong, hcount, hrLen, hidle, hbuffer⟩ := readerStep_isCandidate h hstep hr
  exact ⟨hmagic, hlen, hlong, hcount, hrLen, hidle, hbuffer⟩

/-- PARSE's status is OK exactly on the valid inputs (41_codec R107). -/
theorem parseResponse_ok_iff {cfg : Config} {s : List Byte} : (parseResponse cfg s).status = .ok ↔ Valid cfg s := by
  refine ⟨fun hok => ?_, fun h => by rw [parseResponse_of_valid h]; rfl⟩
  by_contra h
  obtain ⟨e, i, hne, hresponse⟩ := parseResponse_of_not_valid h
  exact hne ((congrArg Response.status hresponse).symm.trans hok)

/-- Settles O39: a candidate has the magic byte and its own length, so only the checksums are left to fail. -/
theorem receivedFramesAreValidOrFailAChecksum : Obligations.ReceivedFramesAreValidOrFailAChecksum := by
  intro s t c i h hstep hr
  obtain ⟨hmagic, hlen, -⟩ := readerStep_isCandidate h hstep hr
  refine ⟨fun hshort => ?short, fun hlong => ?long, parseResponse_ok_iff⟩
  case short =>
    change (parseResponse s.cfg c).status = _
    rw [parseResponse_tooShort hshort]
    rfl
  case long =>
    change (parseResponse s.cfg c).status = _ ∨ (parseResponse s.cfg c).status = _ ∨
      (parseResponse s.cfg c).status = _
    by_cases hhdr : byteAt c 3 = hdrck s.cfg (slice c 0 2)
    case neg =>
      rw [parseResponse_headerChecksum hlong hmagic hlen.symm hhdr]
      exact .inr (.inl rfl)
    by_cases hfrm : rd16 c (c.length - 2) = frmck s.cfg (slice c 0 (c.length - 3))
    case neg =>
      rw [parseResponse_frameChecksum hlong hmagic hlen.symm hhdr hfrm]
      exact .inr (.inr rfl)
    exact .inl (parseResponse_ok_iff.2 ⟨hlong, hmagic, hlen.symm, hhdr, hfrm⟩)

/-! ### The accounting of bytes -/

/-- A move from a state that meets the invariants keeps the sum of the bytes, or is a strict short answer, which drops
them (42_reader R128). -/
theorem ReaderMove.accounts {a : Answer} {s t : State} (hmove : ReaderMove a (need s) s t) (h : ReaderInv s)
    (hle : (delivered a).length ≤ need s) :
    (t.rDisc + t.rCount = s.rDisc + s.rCount + (delivered a).length ∧
      ∀ n r, t.replies ≠ s.replies ++ [⟨0x03, ⟨.shortRead, .empty, .delivered n r⟩⟩]) ∨
    (t.rDisc = s.rDisc ∧ t.rCount = s.rCount ∧
      t.replies = s.replies ++ [⟨0x03, ⟨.shortRead, .empty, .delivered (delivered a).length (need s)⟩⟩]) := by
  cases hmove with
  | terr ha | wait ha | held ha | timeout ha =>
    subst ha
    exact .inl ⟨rfl, by simp [Response.failure]⟩
  | magic b bs ha hs | discard b bs ha hs | noMagic b bs ha hs =>
    subst ha
    have hcount := h.scan hs
    rw [need_scan hs] at hle
    refine .inl ⟨?_, by simp [Response.failure]⟩
    simp only [delivered, List.length_cons, State.raise_rDisc, State.raise_rCount] at hle ⊢
    omega
  | badLength b x ha hne hs hb | headerOnly b x c ha hne hs hb | bodyStarts b x ha hne hs hb =>
    subst ha
    have hend := h.header_end hs hb
    refine .inl ⟨?_, by simp [Response.failure, Response.success]⟩
    change s.rDisc + 4 = s.rDisc + s.rCount + b.length
    omega
  | candidate b c ha hne hs hb =>
    subst ha
    have hend := h.body_end hs hb
    refine .inl ⟨?_, by simp [Response.success]⟩
    change s.rDisc + s.rLen.toNat = s.rDisc + s.rCount + b.length
    omega
  | shortStrict b ha =>
    subst ha
    exact .inr ⟨rfl, rfl, rfl⟩
  | shortKept b ha =>
    subst ha
    exact .inl ⟨(Nat.add_assoc ..).symm, by simp⟩

/-- Settles O40: the position advances by the bytes delivered, and `ReaderMove.accounts` says where they go. -/
theorem consumedBytesAreAccountedFor : Obligations.ConsumedBytesAreAccountedFor := by
  intro s t h hstep
  obtain ⟨-, a, tr, hread, hmove⟩ := readerStep_next hstep
  obtain ⟨hle, hpos, -⟩ := transportDeliversTheStreamOnce s.transport tr (need s) a hread
  obtain ⟨-, -, htransport⟩ := hmove.cfg_schedule
  rw [htransport]
  rcases hmove.accounts (s := { s with transport := tr }) (h.environment tr s.schedule s.replies) hle with
    ⟨hsum, hother⟩ | ⟨hdisc, hcount, hdropped⟩
  · refine ⟨fun n r hr => absurd hr (hother n r), fun _ => ?_⟩
    dsimp only at hsum ⊢
    omega
  · refine ⟨fun n r hr => ?_, fun hnone => absurd ⟨_, _, hdropped⟩ hnone⟩
    obtain ⟨hn, -⟩ : (delivered a).length = n ∧ _ = r := by simpa using hdropped.symm.trans hr
    exact ⟨hn ▸ hpos, hdisc, hcount⟩

/-! ### Progress -/

section Progress

variable {s : State} {b : List Byte} {tr : Transport}

/-- An empty answer is one of the three kinds of 42_reader R121. -/
theorem exists_readerStep_empty (hneed : need s ≠ 0) (hread : Transport.read s.transport (need s) = (.bytes [], tr)) :
    ∃ t, readerStep s = .next t := by
  obtain ⟨hwait, htimeout, hheld⟩ := emptyAnswersSpendTheRetryBudget.1 s tr hneed hread
  by_cases hr : s.rRetry + 1 = s.cfg.retryBudget
  · rcases Nat.lt_or_ge (phaseStart s.rState) s.rCount with hg | hg
    · exact ⟨_, hheld hr hg⟩
    · exact ⟨_, htimeout hr hg⟩
  · exact ⟨_, hwait hr⟩

/-- A byte in SCAN is magic, or discarded below the bound or at it (42_reader R117). -/
theorem exists_readerStep_scan {x : Byte} (hs : s.rState = .scan)
    (hread : Transport.read s.transport 1 = (.bytes [x], tr)) : ∃ t, readerStep s = .next t := by
  obtain ⟨hmagic, hdiscard, hnone⟩ := scanStepFindsMagicOrDiscards s x tr hs hread
  by_cases hx : x = s.cfg.magic
  · exact ⟨_, hmagic hx⟩
  · by_cases hbound : s.cfg.scanBound = some (s.rDisc + 1)
    · exact ⟨_, hnone hx hbound⟩
    · exact ⟨_, hdiscard hx hbound⟩

/-- A short answer fails the call or is kept, by `P_ACCUMULATE` (42_reader R122). -/
theorem exists_readerStep_short (hs : s.rState = .hdr ∨ s.rState = .body) (hne : 1 ≤ b.length)
    (hshort : b.length < need s) (hread : Transport.read s.transport (need s) = (.bytes b, tr)) :
    ∃ t, readerStep s = .next t := by
  obtain ⟨hstrict, hkept⟩ := shortAnswersFailOrAccumulate s b tr hs hne hshort hread
  cases hacc : s.cfg.accumulate with
  | false =>
    obtain ⟨_, ht⟩ := hstrict hacc
    exact ⟨_, ht⟩
  | true =>
    obtain ⟨t, ht, -⟩ := hkept hacc
    exact ⟨t, ht⟩

/-- The link header's length is below 4, 4 or above 4 (42_reader R119). -/
theorem exists_readerStep_header (h : ReaderInv s) (hs : s.rState = .hdr) (hlen : b.length = need s)
    (hread : Transport.read s.transport (need s) = (.bytes b, tr)) : ∃ t, readerStep s = .next t := by
  obtain ⟨hlow, hhigh, -⟩ := h.hdr hs
  rw [need_header hs] at hlen hread
  obtain ⟨b1, b2, -, -, hbad, honly, hbody⟩ :=
    headerStepDecodesTheLength s b tr _ hs hlow hhigh h.held hlen hread rfl
  rcases Nat.lt_trichotomy (decodeLen b1 b2).toNat 4 with hl | hl | hl
  · exact ⟨_, hbad hl⟩
  · obtain ⟨_, -, -, ht⟩ := honly hl
    exact ⟨_, ht⟩
  · exact ⟨_, hbody hl⟩

theorem exists_readerStep_body (h : ReaderInv s) (hs : s.rState = .body) (hlen : b.length = need s)
    (hread : Transport.read s.transport (need s) = (.bytes b, tr)) : ∃ t, readerStep s = .next t := by
  obtain ⟨-, hcount, -⟩ := h.body hs
  rw [need_body hs] at hlen hread
  obtain ⟨_, _, -, -, ht⟩ := bodyStepDeliversTheCandidate s b tr _ hs hcount h.held hlen hread rfl
  exact ⟨_, ht⟩

/-- A busy reader that meets the invariants has a step, whatever the transport answers (10_state R24). -/
theorem exists_readerStep (h : ReaderInv s) (hbusy : Busy s) : ∃ t, readerStep s = .next t := by
  have hneed := one_le_need h hbusy
  match hread : Transport.read s.transport (need s) with
  | (.terr, tr) => exact ⟨_, readerStep_eq_takeAnswer rfl hneed hread⟩
  | (.bytes [], tr) => exact exists_readerStep_empty (Nat.one_le_iff_ne_zero.1 hneed) hread
  | (.bytes (x :: xs), tr) =>
    have hle := Transport.read_bytes_le hread
    have hne : 1 ≤ (x :: xs).length := Nat.succ_pos _
    cases hs : s.rState with
    | idle => exact absurd hs hbusy
    | scan =>
      rw [need_scan hs] at hread hle
      obtain rfl : xs = [] := List.length_eq_zero_iff.1 (Nat.le_zero.1 (Nat.le_of_succ_le_succ hle))
      exact exists_readerStep_scan hs hread
    | hdr =>
      rcases hle.lt_or_eq with hshort | hfull
      · exact exists_readerStep_short (.inl hs) hne hshort hread
      · exact exists_readerStep_header h hs hfull hread
    | body =>
      rcases hle.lt_or_eq with hshort | hfull
      · exact exists_readerStep_short (.inr hs) hne hshort hread
      · exact exists_readerStep_body h hs hfull hread

theorem exists_readerTurn (h : ReaderInv s) : ∃ t, readerTurn s = .next t := by
  by_cases hidle : s.rState = .idle
  · exact ⟨s, readerTurn_idle hidle⟩
  · rw [readerTurn_busy hidle]
    exact exists_readerStep h hidle

end Progress

/-- Settles O48: a turn of the reader has a next state, and so has each event but the three. -/
theorem onlyRefusedEventsStopTheMachine : Obligations.OnlyRefusedEventsStopTheMachine := by
  intro s h
  match hsched : s.schedule with
  | [] =>
    rw [step_unscheduled h.legal hsched]
    exact .inl (exists_readerTurn h)
  | e :: es =>
    rw [step_event h.legal hsched]
    cases e with
    | readerTurn => exact .inl (exists_readerTurn (h.environment s.transport es s.replies))
    | command c =>
      match hdecode : decode c with
      | .ok i =>
        obtain ⟨t, ht⟩ := everyCommandIsOpenInEveryState i (s.withSchedule es)
        exact .inl ⟨t, (runCommand_of_decode hdecode).trans ht⟩
      | .error (.reservedCode op) => exact .inl ⟨_, runCommand_of_reservedCode _ hdecode⟩
      | .error (.operandTypes op) =>
        refine .inr (.inl ⟨c, op, es, rfl, hdecode, ?_⟩)
        rw [runEvent, runCommand, hdecode]
    | reset c =>
      cases hc : c.legal with
      | true => exact .inl ⟨_, if_pos hc⟩
      | false => exact .inr (.inr (.inl ⟨c, es, rfl, hc, resetTo_illegal _ hc⟩))
    | configure c =>
      by_cases hc : c = s.cfg
      · exact .inl ⟨_, if_pos hc⟩
      · exact .inr (.inr (.inr ⟨c, es, rfl, hc, configure_change hc⟩))

end Sys2Proof.Machine
end

section
/-! Proofs: runs of a call (42_reader R126, R129, R130, 60_exceptions R150). -/
namespace Sys2Proof.Machine

open Sys2Proof.Safety

/-- With nothing scheduled a busy reader steps. -/
theorem step_busy {s : State} (hcfg : s.cfg.legal = true) (hsched : s.schedule = []) (hbusy : s.rState ≠ .idle) :
    step s = readerStep s :=
  (step_unscheduled hcfg hsched).trans (readerTurn_busy hbusy)

/-- A reader step writes neither the configuration nor the schedule. -/
theorem readerStep_cfg_schedule {s t : State} (h : readerStep s = .next t) :
    t.cfg = s.cfg ∧ t.schedule = s.schedule := by
  obtain ⟨-, a, tr, -, hmove⟩ := readerStep_next h
  obtain ⟨hcfg, hsched, -⟩ := hmove.cfg_schedule
  exact ⟨hcfg, hsched⟩

/-! ### ABORT and a reader step -/

theorem step_abort {s : State} {es : List Event} (hcfg : s.cfg.legal = true)
    (hsched : s.schedule = .command ⟨0x04, []⟩ :: es) : step s = exec .abort (s.withSchedule es) :=
  stepRunsTheScheduledCommand s _ es .abort hcfg hsched rfl

theorem step_nextFrame_idle {s : State} {es : List Event} (hcfg : s.cfg.legal = true)
    (hsched : s.schedule = .command ⟨0x03, []⟩ :: es) (hidle : s.rState = .idle) :
    step s = .next (s.withSchedule es).startCall :=
  (stepRunsTheScheduledCommand s _ es .nextFrame hcfg hsched rfl).trans (exec_nextFrame_idle hidle)

/-- Settles O41: after ABORT the reader's turn is that of an idle reader; after a reader step ABORT runs as it stands. -/
theorem abortAndStepInEitherOrder : Obligations.AbortAndStepInEitherOrder := by
  intro s hcfg hbusy
  refine ⟨fun hsched => ?abortFirst, fun u hsched hstep => ?stepFirst⟩
  case abortFirst =>
    have habort := (step_abort hcfg hsched).trans (exec_abort_busy hbusy)
    have hturn := (step_event (s := ((s.withSchedule [.readerTurn]).raise .aborted .nothing).reply 0x04 (.success .empty))
      hcfg rfl).trans (readerTurn_idle rfl)
    rw [run_next habort, run_next hturn, run_zero]
    rfl
  case stepFirst =>
    have hreader := ((step_event hcfg hsched).trans (readerTurn_busy hbusy)).trans hstep
    obtain ⟨hucfg, husched⟩ := readerStep_cfg_schedule hstep
    obtain ⟨t, ht⟩ := everyCommandIsOpenInEveryState .abort (u.withSchedule [])
    rw [run_next hreader, run_next ((step_abort (hucfg ▸ hcfg) husched).trans ht), run_zero]
    exact ht.symm

/-! ### Endless noise and silence -/

theorem Transport.read_endless {t : Transport} {b : Byte} (n : Nat) (hs : t.script = []) (ht : t.tail = .endless b) :
    Transport.read t n = (.bytes (List.replicate n b), { t with pos := t.pos + n }) := by
  simp only [Transport.read, hs, ht]

theorem Transport.read_silent {t : Transport} (n : Nat) (hs : t.script = []) (ht : t.tail = .silent) :
    Transport.read t n = (.bytes [], t) := by
  simp only [Transport.read, hs, ht]

theorem readerStep_discard {s : State} {x : Byte} {tr : Transport} (hs : s.rState = .scan)
    (hread : Transport.read s.transport 1 = (.bytes [x], tr)) (hx : x ≠ s.cfg.magic)
    (hbound : s.cfg.scanBound ≠ some (s.rDisc + 1)) :
    readerStep s = .next { s with transport := tr, rRetry := 0, rDisc := s.rDisc + 1 } :=
  (readerStep_scan hs hread).trans (scanByte_discard hx hbound)

/-- Settles O43, by induction on the number of steps: each discards one byte. -/
theorem endlessNoiseKeepsTheCallScanning : Obligations.EndlessNoiseKeepsTheCallScanning := by
  intro s b k hcfg hbound hsched hs hscript htail hb
  induction k generalizing s with
  | zero => exact ⟨s, run_zero s, hs, rfl, rfl, rfl⟩
  | succ k ih =>
    have hstep := (step_busy hcfg hsched (by simp [hs])).trans
      (readerStep_discard hs (Transport.read_endless 1 hscript htail) hb (by simp [hbound]))
    obtain ⟨t, hrun, ht, hdisc, hreplies, hpos⟩ :=
      ih { s with transport := { s.transport with pos := s.transport.pos + 1 }, rRetry := 0, rDisc := s.rDisc + 1 }
        hcfg hbound hsched hs hscript htail hb
    rw [run_next hstep]
    exact ⟨t, hrun, ht, by rw [hdisc]; exact Nat.add_right_comm .., hreplies,
      by rw [hpos]; exact Nat.add_right_comm ..⟩

theorem step_silent {s : State} (hcfg : s.cfg.legal = true) (hsched : s.schedule = []) (hs : s.rState = .scan)
    (hscript : s.transport.script = []) (htail : s.transport.tail = .silent) : step s = emptyAnswer s :=
  (step_busy hcfg hsched (by simp [hs])).trans
    (readerStep_eq_takeAnswer (need_scan hs) le_rfl (Transport.read_silent 1 hscript htail))

/-- With `n + 1` empty answers left a call in SCAN on a silent transport ends in as many steps. -/
theorem run_silent {n : Nat} {s : State} (hcfg : s.cfg.legal = true) (hsched : s.schedule = []) (hs : s.rState = .scan)
    (hcount : s.rCount = 0) (hscript : s.transport.script = []) (htail : s.transport.tail = .silent)
    (hn : s.rRetry + (n + 1) = s.cfg.retryBudget) :
    ∃ t : State, Host.Core.run Sys2Proof.core (n + 1) s = .next t ∧ t.rState = .idle ∧
      t.replies = s.replies ++ [⟨0x03, ⟨.timeout, .empty, .retries s.cfg.retryBudget⟩⟩] ∧
      t.transport.pos = s.transport.pos := by
  induction n generalizing s with
  | zero =>
    rw [run_next ((step_silent hcfg hsched hs hscript htail).trans
      (emptyAnswer_timeout hn (hcount.trans_le (Nat.zero_le _)))), run_zero, ← hn]
    exact ⟨_, rfl, rfl, rfl, rfl⟩
  | succ n ih =>
    rw [run_next ((step_silent hcfg hsched hs hscript htail).trans (emptyAnswer_wait (by omega)))]
    exact ih (s := { s with rRetry := s.rRetry + 1 }) hcfg hsched hs hcount hscript htail (by dsimp only; omega)

/-- Settles O44: NEXT_FRAME starts the call, and each of the empty answers takes one step. -/
theorem silentTransportsEndInTimeout : Obligations.SilentTransportsEndInTimeout := by
  intro s hcfg hidle hsched hscript htail
  obtain ⟨-, -, hbudget⟩ := (legal_iff _).1 hcfg
  obtain ⟨n, hn⟩ := Nat.exists_eq_add_of_le' hbudget
  rw [Nat.add_comm, run_next (step_nextFrame_idle hcfg hsched hidle), hn]
  exact hn ▸ run_silent (s := (s.withSchedule []).startCall) hcfg rfl rfl rfl hscript htail (by simp; omega)

/-! ### Every call ends under a finite scan bound -/

/-- The bytes a call can still place or discard: those of SCAN below the bound, and the free ones of the buffer. -/
def bytesLeft (bound : Nat) (s : State) : Nat :=
  (if s.rState = .scan then bound - 1 - s.rDisc else 0) + (maxFrame - s.rCount)

/-- The steps a call can still take: a whole retry budget for each byte left, and what is left of the present one. -/
def stepsLeft (bound : Nat) (s : State) : Nat :=
  bytesLeft bound s * s.cfg.retryBudget + (s.cfg.retryBudget - s.rRetry)

section Ends

variable {bound : Nat} {s t : State} {a : Answer}

theorem need_le_bytesLeft (h : ReaderInv s) (hbusy : Busy s) : need s ≤ bytesLeft bound s := by
  have hpos := one_le_need h hbusy
  cases hs : s.rState with
  | idle => exact absurd hs hbusy
  | scan =>
    have hcount := h.scan hs
    simp only [need_scan hs, bytesLeft, hcount, maxFrame]
    omega
  | hdr =>
    have hfit := rCount_add_need_le (.inl hs) hpos
    rw [bytesLeft]
    omega
  | body =>
    have hfit := rCount_add_need_le (.inr hs) hpos
    rw [bytesLeft]
    omega

/-- A move that goes on with the call uses up the bytes it is answered with. -/
theorem ReaderMove.bytesLeft_le (hmove : ReaderMove a (need s) s t) (h : ReaderInv s) (hbusy : Busy s)
    (hbound : s.cfg.scanBound = some bound) (hle : (delivered a).length ≤ need s) (hgoes : Busy t) :
    bytesLeft bound t + (delivered a).length ≤ bytesLeft bound s := by
  cases hmove with
  | terr | held | timeout | noMagic | badLength | headerOnly | candidate | shortStrict => exact absurd rfl hgoes
  | wait ha =>
    subst ha
    exact le_rfl
  | magic b bs ha hs =>
    subst ha
    have hcount := h.scan hs
    rw [need_scan hs] at hle
    simp only [bytesLeft, hs, hcount, maxFrame, reduceCtorEq, if_true, if_false]
    omega
  | discard b bs ha hs hb hd =>
    subst ha
    have hdisc := (h.disc bound hbound).2 hbusy
    have hbelow : s.rDisc + 1 ≠ bound := fun heq => hd (heq ▸ hbound)
    rw [need_scan hs] at hle
    simp only [bytesLeft, hs, if_true]
    omega
  | bodyStarts b x ha hne hs hb =>
    subst ha
    have hend := h.header_end hs hb
    simp only [bytesLeft, hs, reduceCtorEq, if_false, delivered, maxFrame]
    omega
  | shortKept b ha hne hs hb hi =>
    subst ha
    simp only [bytesLeft, delivered, maxFrame] at hi ⊢
    omega

theorem ReaderMove.rRetry_of_empty {n : Nat} (hmove : ReaderMove a n s t) (hempty : delivered a = []) (hgoes : Busy t) :
    t.rRetry = s.rRetry + 1 := by
  cases hmove with
  | wait => rfl
  | terr | held | timeout | noMagic | badLength | headerOnly | candidate | shortStrict => exact absurd rfl hgoes
  | magic b bs ha | discard b bs ha =>
    subst ha
    cases hempty
  | bodyStarts b x ha hne | shortKept b ha hne =>
    subst ha
    exact absurd hempty hne

/-- A move that goes on with the call leaves fewer steps: an empty answer spends one of the retry budget, any other a byte
with its whole budget. -/
theorem ReaderMove.stepsLeft_lt (hmove : ReaderMove a (need s) s t) (h : ReaderInv s) (hbusy : Busy s)
    (hbound : s.cfg.scanBound = some bound) (hle : (delivered a).length ≤ need s) (hgoes : Busy t) :
    stepsLeft bound t < stepsLeft bound s := by
  obtain ⟨hcfg, -, -⟩ := hmove.cfg_schedule
  have hretry : s.rRetry < s.cfg.retryBudget := h.retry.2 hbusy
  have hbytes := hmove.bytesLeft_le h hbusy hbound hle hgoes
  rw [stepsLeft, stepsLeft, hcfg]
  by_cases hempty : delivered a = []
  · have hmul := Nat.mul_le_mul_right s.cfg.retryBudget (Nat.le_of_add_right_le hbytes)
    rw [hmove.rRetry_of_empty hempty hgoes]
    omega
  · have hlen : 1 ≤ (delivered a).length := List.length_pos_iff.2 hempty
    have hmul := Nat.mul_le_mul_right s.cfg.retryBudget ((Nat.add_le_add_left hlen _).trans hbytes)
    rw [Nat.add_mul, Nat.one_mul] at hmul
    rw [hmove.rRetry_of_delivered hempty]
    omega

/-- One step of a call: it ends with the bytes consumed that were left, or goes on with fewer steps left. -/
theorem exists_step_of_busy (h : ReaderInv s) (hbusy : Busy s) (hsched : s.schedule = [])
    (hbound : s.cfg.scanBound = some bound) :
    ∃ t, step s = .next t ∧ ReaderInv t ∧ t.schedule = [] ∧ t.cfg = s.cfg ∧
      ((t.rState = .idle ∧ t.transport.pos ≤ s.transport.pos + bytesLeft bound s) ∨
        (Busy t ∧ stepsLeft bound t < stepsLeft bound s ∧
          t.transport.pos + bytesLeft bound t ≤ s.transport.pos + bytesLeft bound s)) := by
  obtain ⟨t, hstep⟩ := exists_readerStep h hbusy
  obtain ⟨-, a, tr, hread, hmove⟩ := readerStep_next hstep
  obtain ⟨hle, hpos, -⟩ := transportDeliversTheStreamOnce s.transport tr (need s) a hread
  obtain ⟨hcfg, hschedule, htransport⟩ := hmove.cfg_schedule
  have hs : ReaderInv { s with transport := tr } := h.environment tr s.schedule s.replies
  refine ⟨t, (step_busy h.legal hsched hbusy).trans hstep, h.readerStep hbusy hstep, hschedule.trans hsched, hcfg, ?_⟩
  rw [htransport]
  dsimp only
  by_cases hidle : t.rState = .idle
  · have hneed := need_le_bytesLeft (bound := bound) h hbusy
    exact .inl ⟨hidle, by omega⟩
  · have hbytes := hmove.bytesLeft_le (s := { s with transport := tr }) hs hbusy hbound hle hidle
    have hsteps := hmove.stepsLeft_lt (s := { s with transport := tr }) hs hbusy hbound hle hidle
    refine .inr ⟨hidle, hsteps, ?_⟩
    change _ ≤ _ + bytesLeft bound { s with transport := tr }
    omega

/-- A call ends within the steps left, and consumes at most the bytes left. -/
theorem exists_run_idle (h : ReaderInv s) (hbusy : Busy s) (hsched : s.schedule = [])
    (hbound : s.cfg.scanBound = some bound) :
    ∃ (k : Nat) (t : State), k ≤ stepsLeft bound s ∧ Host.Core.run Sys2Proof.core k s = .next t ∧ t.rState = .idle ∧
      t.transport.pos ≤ s.transport.pos + bytesLeft bound s := by
  induction hn : stepsLeft bound s using Nat.strong_induction_on generalizing s with
  | _ n ih =>
    subst hn
    obtain ⟨t, hstep, ht, htsched, hcfg, ⟨hidle, hpos⟩ | ⟨htbusy, hlt, hpos⟩⟩ :=
      exists_step_of_busy h hbusy hsched hbound
    · have hretry : s.rRetry < s.cfg.retryBudget := h.retry.2 hbusy
      refine ⟨1, t, ?_, (run_next hstep).trans (run_zero t), hidle, hpos⟩
      rw [stepsLeft]
      omega
    · obtain ⟨k, u, hk, hrun, hidle, hupos⟩ := ih _ hlt ht htbusy htsched (hcfg ▸ hbound) rfl
      exact ⟨k + 1, u, by omega, (run_next hstep).trans hrun, hidle, by omega⟩

theorem bytesLeft_le : bytesLeft bound s ≤ bound - 1 + 1023 := by
  rw [bytesLeft, maxFrame]
  split <;> omega

theorem stepsLeft_le (hpos : 1 ≤ bound) : stepsLeft bound s ≤ (bound + 1023) * s.cfg.retryBudget := by
  have hbytes : bytesLeft bound s ≤ bound - 1 + 1023 := bytesLeft_le
  calc stepsLeft bound s ≤ bytesLeft bound s * s.cfg.retryBudget + s.cfg.retryBudget :=
        Nat.add_le_add_left (Nat.sub_le _ _) _
    _ = (bytesLeft bound s + 1) * s.cfg.retryBudget := (Nat.succ_mul _ _).symm
    _ ≤ (bound + 1023) * s.cfg.retryBudget := Nat.mul_le_mul_right _ (by omega)

end Ends

/-- Settles O42: the steps and bytes left at the start of a call are within the bounds. -/
theorem callsEndUnderAFiniteScanBound : Obligations.CallsEndUnderAFiniteScanBound := by
  intro s bound h hbusy hsched hbound
  obtain ⟨-, hpos, -⟩ := (legal_iff _).1 h.legal
  obtain ⟨k, t, hk, hrun, hidle, hle⟩ := exists_run_idle h hbusy hsched hbound
  exact ⟨k, t, hk.trans (stepsLeft_le (hpos bound hbound)), hrun, hidle, hle.trans (Nat.add_le_add_left bytesLeft_le _)⟩

end Sys2Proof.Machine
end

section
/-! Proofs: resynchronisation on a clean stream (42_reader R130). -/
namespace Sys2Proof.Machine

open Sys2Proof.Safety

/-! ### The buffer and the stream -/

theorem Memory.writeBytes_append (m : Memory) (i : Nat) (x y : List Byte) :
    Memory.writeBytes m i (x ++ y) = Memory.writeBytes (Memory.writeBytes m i x) (i + x.length) y := by
  induction x generalizing m i with
  | nil => rfl
  | cons b x ih =>
    rw [List.cons_append, Memory.writeBytes, Memory.writeBytes, ih, List.length_cons, Nat.add_right_comm, Nat.add_assoc]

/-- The bytes just stored at the start of the buffer are loaded back. -/
theorem Memory.load_writeBytes {m : Memory} {x : List Byte} (h : x.length ≤ maxFrame) :
    Memory.load (Memory.writeBytes m 0 x) 0 x.length = .ok x := by
  refine Memory.load_of_read (by omega) fun k hk => ?_
  rw [Nat.zero_add, Memory.read_writeBytes, if_pos (by omega), Nat.sub_zero]

/-- A request for the first part of a scripted piece is answered with that part. -/
theorem Transport.read_front {t : Transport} {x y : List Byte} {more : List Answer}
    (h : t.script = .bytes (x ++ y) :: more) :
    ∃ tr, Transport.read t x.length = (.bytes x, tr) ∧ tr.pos = t.pos + x.length ∧
      scripted tr.script = y ++ scripted more := by
  obtain ⟨tr, hread⟩ : ∃ tr, Transport.read t x.length = (.bytes x, tr) := by
    rcases List.eq_nil_or_concat y with rfl | ⟨_, _, rfl⟩
    · rw [List.append_nil] at h
      exact ⟨_, Transport.read_piece t _ h le_rfl⟩
    · exact ⟨_, (Transport.read_part t _ h (by simp)).trans (by rw [List.take_left])⟩
  refine ⟨tr, hread, Transport.read_pos hread, ?_⟩
  have hstream := Transport.read_scripted hread (by simp [h])
  simpa [h, delivered, scripted] using hstream

/-! ### The states of a call on such a stream -/

/-- The call of `s` in SCAN, with `rest` next in line after `pos` bytes of which `disc` are discarded. -/
def scanningAt (s : State) (rest : List Byte) (more : List Answer) (pos disc : Nat) : State :=
  { s with rState := .scan, rCount := 0, rDisc := disc, rRetry := 0, schedule := [],
           transport := { s.transport with script := .bytes rest :: more, pos := pos } }

/-- The same call with the bytes `held` in the buffer, in HDR or BODY. -/
def holdingAt (s : State) (st : ReaderState) (len : BitVec 10) (held rest : List Byte) (more : List Answer)
    (pos disc : Nat) : State :=
  { scanningAt s rest more pos disc with rState := st, rBuf := Memory.writeBytes s.rBuf 0 held, rCount := held.length,
                                         rLen := len }

section Stream

variable {s : State} {more : List Answer} {pos disc : Nat} (hcfg : s.cfg.legal = true)
include hcfg

theorem step_scanningAt {rest : List Byte} {b : Byte} (hrest : rest ≠ []) :
    step (scanningAt s (b :: rest) more pos disc) = scanByte b (scanningAt s rest more (pos + 1) disc) := by
  have hlen : 1 < (b :: rest).length := Nat.succ_lt_succ (List.length_pos_iff.2 hrest)
  have hread := Transport.read_part (scanningAt s (b :: rest) more pos disc).transport 1 rfl hlen
  rw [step_busy (s := scanningAt s _ _ _ _) hcfg rfl (fun h => by cases h), readerStep_scan rfl hread]
  rfl

/-- Garbage without a magic byte, below the scan bound, is discarded byte by byte (42_reader R117). -/
theorem run_garbage {g rest : List Byte} (hrest : rest ≠ []) (hg : ∀ b ∈ g, b ≠ s.cfg.magic)
    (hbound : ∀ bound, s.cfg.scanBound = some bound → disc + g.length < bound) :
    Host.Core.run Sys2Proof.core g.length (scanningAt s (g ++ rest) more pos disc) =
      .next (scanningAt s rest more (pos + g.length) (disc + g.length)) := by
  induction g generalizing pos disc with
  | nil => exact run_zero _
  | cons b g ih =>
    simp only [List.length_cons, List.mem_cons, forall_eq_or_imp] at hg hbound
    obtain ⟨hb, hg⟩ := hg
    have hbelow : s.cfg.scanBound ≠ some (disc + 1) := fun h => absurd (hbound _ h) (by omega)
    have hstep : step (scanningAt s (b :: (g ++ rest)) more pos disc) =
        .next (scanningAt s (g ++ rest) more (pos + 1) (disc + 1)) :=
      (step_scanningAt hcfg (List.append_ne_nil_of_right_ne_nil g hrest)).trans (scanByte_discard hb hbelow)
    rw [List.length_cons, List.cons_append, run_next hstep, ih hg fun bound h => by have := hbound bound h; omega]
    congr 2 <;> omega

/-- The magic byte starts the link header (42_reader R117). -/
theorem step_magic {rest : List Byte} (hrest : rest ≠ []) :
    step (scanningAt s (s.cfg.magic :: rest) more pos disc) =
      .next (holdingAt s .hdr s.rLen [s.cfg.magic] rest more (pos + 1) disc) :=
  (step_scanningAt hcfg hrest).trans (scanByte_magic rfl)

/-- The rest of a link header whose length is above 4 starts the body (42_reader R118, R119). -/
theorem step_header {len : BitVec 10} {b1 b2 b3 : Byte} {rest : List Byte} (hrest : rest ≠ [])
    (hlen : 4 < (decodeLen b1 b2).toNat) :
    step (holdingAt s .hdr len [s.cfg.magic] (b1 :: b2 :: b3 :: rest) more pos disc) =
      .next (holdingAt s .body (decodeLen b1 b2) [s.cfg.magic, b1, b2, b3] rest more (pos + 3) disc) := by
  have hlong : 3 < (b1 :: b2 :: b3 :: rest).length := Nat.add_lt_add_right (List.length_pos_iff.2 hrest) 3
  have hread := Transport.read_part
    (holdingAt s .hdr len [s.cfg.magic] (b1 :: b2 :: b3 :: rest) more pos disc).transport 3 rfl hlong
  have hload : Memory.load (Memory.writeBytes s.rBuf 0 [s.cfg.magic, b1, b2, b3]) 1 2 = .ok [b1, b2] :=
    Memory.load_pair (by decide) (by rw [Memory.read_writeBytes]; rfl) (by rw [Memory.read_writeBytes]; rfl)
  have hfit : (holdingAt s .hdr len [s.cfg.magic] (b1 :: b2 :: b3 :: rest) more pos disc).rCount +
      [b1, b2, b3].length ≤ maxFrame := (by decide : 1 + 3 ≤ 1023)
  rw [step_busy (s := holdingAt s _ _ _ _ _ _ _) hcfg rfl (fun h => by cases h),
    readerStep_header_full (b := [b1, b2, b3]) rfl (Nat.succ_pos _) rfl hfit hread,
    decodeLength_bodyStarts hload hlen]
  rfl

/-- The rest of the body completes the candidate (42_reader R120). -/
theorem step_body {len : BitVec 10} {head body rest : List Byte} (hne : body ≠ [])
    (hlen : len.toNat = (head ++ body).length) :
    ∃ t, step (holdingAt s .body len head (body ++ rest) more pos disc) = .next t ∧ t.rState = .idle ∧
      t.replies = s.replies ++ [⟨0x03, ⟨.ok, .bytes (head ++ body), .nothing⟩⟩] ∧ t.rDisc = disc ∧
      t.rCount = len.toNat ∧ t.rLen = len ∧ t.transport.pos = pos + body.length ∧
      scripted t.transport.script = rest ++ scripted more := by
  have hmax : (head ++ body).length ≤ maxFrame := hlen ▸ Nat.le_of_lt_succ len.isLt
  have hload : Memory.load (Memory.writeBytes (Memory.writeBytes s.rBuf 0 head) head.length body) 0 len.toNat =
      .ok (head ++ body) := by
    rw [hlen, ← Memory.load_writeBytes (m := s.rBuf) hmax, Memory.writeBytes_append, Nat.zero_add]
  rw [List.length_append] at hlen hmax
  have hbody : body.length = len.toNat - head.length := by omega
  obtain ⟨tr, hread, hpos, hscript⟩ :=
    Transport.read_front (t := (holdingAt s .body len head (body ++ rest) more pos disc).transport) rfl
  rw [hbody] at hread
  rw [step_busy (s := holdingAt s _ _ _ _ _ _ _) hcfg rfl (fun h => by cases h),
    readerStep_body_full (s := holdingAt s _ _ _ _ _ _ _) rfl (List.length_pos_iff.2 hne) hbody hmax hread, deliver]
  simp only [holdingAt, hload]
  exact ⟨_, rfl, rfl, rfl, rfl, rfl, rfl, hpos, hscript⟩

end Stream

/-- A valid frame is its magic byte, the other three bytes of its link header and a body of at least nine. -/
theorem exists_header_body_of_valid {cfg : Config} {f : List Byte} (h : Valid cfg f) :
    ∃ (b1 b2 b3 : Byte) (body : List Byte), f = [cfg.magic, b1, b2, b3] ++ body ∧ body ≠ [] ∧
      (decodeLen b1 b2).toNat = f.length := by
  obtain ⟨hlong, hmagic, hlen, -⟩ := h
  match f, hlong with
  | b0 :: b1 :: b2 :: b3 :: b4 :: body, _ =>
    obtain rfl : b0 = cfg.magic := hmagic
    exact ⟨b1, b2, b3, b4 :: body, rfl, List.cons_ne_nil _ _, hlen⟩

/-- Settles O45: NEXT_FRAME, the garbage, the magic byte, the link header and the body, one after another. -/
theorem cleanGarbageThenFrameYieldsTheFrame : Obligations.CleanGarbageThenFrameYieldsTheFrame := by
  intro s g f r more hcfg hidle hsched hscript hg hbound hvalid
  obtain ⟨b1, b2, b3, body, rfl, hbody, hlen⟩ := exists_header_body_of_valid hvalid
  have hlong : 4 < (decodeLen b1 b2).toNat := by
    rw [hlen, List.length_append]
    exact Nat.lt_add_of_pos_right (List.length_pos_iff.2 hbody)
  have hstart : step s =
      .next (scanningAt s (g ++ s.cfg.magic :: b1 :: b2 :: b3 :: (body ++ r)) more s.transport.pos 0) := by
    have hstream : g ++ ([s.cfg.magic, b1, b2, b3] ++ body) ++ r = g ++ s.cfg.magic :: b1 :: b2 :: b3 :: (body ++ r) := by
      simp
    rw [step_nextFrame_idle hcfg hsched hidle, scanningAt, ← hstream, ← hscript]
    rfl
  have hgarbage := run_garbage (s := s) (more := more) (pos := s.transport.pos) (disc := 0) hcfg
    (List.cons_ne_nil s.cfg.magic (b1 :: b2 :: b3 :: (body ++ r))) hg (by simpa using hbound)
  obtain ⟨t, hlast, hidle', hreplies, hdisc, hcount, hrLen, hpos, hrest⟩ :=
    step_body (s := s) (more := more) (pos := s.transport.pos + g.length + 1 + 3) (disc := 0 + g.length)
      (len := decodeLen b1 b2) (head := [s.cfg.magic, b1, b2, b3]) (rest := r) hcfg hbody hlen
  refine ⟨t, ?run, hidle', hreplies, ?discarded, hcount.trans hlen, hrLen ▸ hlen, ?position, hrest⟩
  case run =>
    rw [run_next (k := g.length + 3) hstart, run_add hgarbage, run_next (step_magic hcfg (List.cons_ne_nil _ _)),
      run_next (step_header hcfg (List.append_ne_nil_of_left_ne_nil hbody r) hlong), run_next hlast, run_zero]
  case discarded => rw [hdisc, Nat.zero_add]
  case position =>
    rw [hpos, List.length_append]
    simp only [List.length_cons, List.length_nil]
    omega

end Sys2Proof.Machine
end
